-- ==== Sys2Proof/Word.lean ====
section
/-! DEFINITION. The word and byte types of the block: every register and every bus
word has 32 bits (00_scope.md R4, R7), both memories are byte arrays (20_memory.md R60). -/

namespace Sys2Proof

/-- A 32-bit register, bus word or write mask (R4: "register width 32 bits"). -/
abbrev Word := BitVec 32

/-- One byte of local memory or of main memory (R20, R34 (d)). -/
abbrev Byte := BitVec 8

end Sys2Proof
end

