-- ==== Sys2Proof/Config.lean ====
section
/-! DEFINITION. What an implementation fixes (00_scope.md R5, R6), as plain data that the state
carries and no operation changes, the vocabulary of the block's collaborators (10_state.md R34,
30_encoding.md R103), and the one free value of the model: what a call of a task executor does
(43_dispatch.md R246). -/

namespace Sys2Proof

/-! ## Parameters -/

/-- How four local-memory bytes form a bus word, the parameter `LM_BYTE_ORDER` (R61, D7). -/
inductive ByteOrder where
  /-- `LM[a]` in bits 31:24: the order the spec decides. -/
  | big
  /-- `LM[a]` in bits 7:0: the other value of the parameter. -/
  | little
deriving DecidableEq, Repr

/-- Which interrupt-controller call the SET_INTR command makes, the parameter `INTR_SET_CALL`
(R166, D19). -/
inductive IntrSetCall where
  /-- `schedulePendingInterrupt(SP)`: the call the spec decides. -/
  | schedulePending
  /-- `raiseInterrupt(SP)`: the other value of the parameter. -/
  | raise
deriving DecidableEq, Repr

/-- Where each flag stands in the stored STATUS word, the parameter `STATUS_FLAG_BIT` (R27, D4). Two
flags never share a bit: D4 admits "any injective placement". -/
structure FlagBits where
  halt : Fin 32
  broke : Fin 32
  sstep : Fin 32
  intrOnBreak : Fin 32
  /-- SIG0 to SIG7. -/
  sig : Vector (Fin 32) 8
  distinct : ([halt, broke, sstep, intrOnBreak] ++ sig.toList).Nodup
deriving DecidableEq, Repr

/-- Where each command stands in the word written to STATUS, the parameter `STATUS_CMD_BIT` (R95,
D5). Two commands never share a bit (R188: "The commands are independent"). -/
structure CmdBits where
  clrHalt : Fin 32
  setHalt : Fin 32
  clrBroke : Fin 32
  clrIntr : Fin 32
  setIntr : Fin 32
  clrSstep : Fin 32
  setSstep : Fin 32
  clrIntrBreak : Fin 32
  setIntrBreak : Fin 32
  /-- CLR_SIG0 to CLR_SIG7. -/
  clrSig : Vector (Fin 32) 8
  /-- SET_SIG0 to SET_SIG7. -/
  setSig : Vector (Fin 32) 8
  distinct : ([clrHalt, setHalt, clrBroke, clrIntr, setIntr, clrSstep, setSstep, clrIntrBreak,
    setIntrBreak] ++ clrSig.toList ++ setSig.toList).Nodup
deriving DecidableEq, Repr

/-- The placement of R27 (D4). -/
def FlagBits.spec : FlagBits where
  halt := 0
  broke := 1
  sstep := 5
  intrOnBreak := 6
  sig := #v[7, 8, 9, 10, 11, 12, 13, 14]
  distinct := by decide

/-- The table of R95 (D5): pair `k` at bits `2k` and `2k + 1`, bit 3 and bits 26 to 31 without a
command. -/
def CmdBits.spec : CmdBits where
  clrHalt := 0
  setHalt := 1
  clrBroke := 2
  clrIntr := 4
  setIntr := 5
  clrSstep := 6
  setSstep := 7
  clrIntrBreak := 8
  setIntrBreak := 9
  clrSig := #v[10, 12, 14, 16, 18, 20, 22, 24]
  setSig := #v[11, 13, 15, 17, 19, 21, 23, 25]
  distinct := by decide

/-- The parameters of R5 and the configuration flags of R6, constant for the life of the machine.
The two sizes that must be powers of two are held as exponents, so that no other size can be
written down. -/
structure Config where
  /-- log2 of `PCREGS_COUNT`, the number of words in the secondary bank (R5, R31, D11). -/
  pcregsBits : Nat
  /-- log2 of `MAIN_MEM_SIZE`, the size of main memory in bytes (R5, R66, D12). -/
  mainMemBits : Nat
  /-- `BYTE_XOR`, the accessor's constant, less than 4 (R64, D13). -/
  byteXor : BitVec 2
  /-- `SP_COMPLETION_DELAY` in timeline ticks (R247, D14). -/
  spCompletionDelay : Nat
  /-- `DP_INTERRUPT_DELAY` in timeline ticks (R242, D14). -/
  dpInterruptDelay : Nat
  /-- `EXEC_MAX_STEPS`, the argument of every executor call (R246, D15). -/
  execMaxSteps : Nat
  /-- `PC_MASK` (R245, D9). -/
  pcMask : Word
  /-- `STATUS_FLAG_BIT` (R27, D4). -/
  flagBits : FlagBits
  /-- `STATUS_CMD_BIT` (R95, D5). -/
  cmdBits : CmdBits
  /-- `LM_BYTE_ORDER` (R61, D7). -/
  lmByteOrder : ByteOrder
  /-- `DELIVERY_CLEARS_LOCK` (R248, D18). -/
  deliveryClearsLock : Bool
  /-- `INTR_SET_CALL` (R166, D19). -/
  intrSetCall : IntrSetCall
  /-- SET_SIG0 additionally raises the interrupt (R6, R172). -/
  audioSignalEnabled : Bool
  /-- Tag 2 runs the alternate audio executor (R6, R243). -/
  audioHleMode : Bool
  /-- The graphics path does not ask whether the raster stage is frozen (R6, R242). -/
  skipFreezeCheck : Bool
deriving DecidableEq, Repr

/-- `PCREGS_COUNT` (R5): a power of two, at least 1. -/
def Config.pcregsCount (c : Config) : Nat := 2 ^ c.pcregsBits

/-- `MAIN_MEM_SIZE` (R5): a power of two. -/
def Config.mainMemSize (c : Config) : Nat := 2 ^ c.mainMemBits

/-- `LOCAL_MEM_SIZE` = 8192 bytes (R4). -/
def localMemSize : Nat := 8192

/-- `TAG_OFFSET` = 0xFC0, the byte offset of the task type tag in local memory (R4). -/
def tagOffset : Nat := 0xFC0

/-- The construction arguments of the reset state.
The spec's decisions where it decides (`PC_MASK` D9, `STATUS_FLAG_BIT` D4, `STATUS_CMD_BIT` D5,
`LM_BYTE_ORDER` D7, `DELIVERY_CLEARS_LOCK` D18, `INTR_SET_CALL` D19), its recommended values where
it recommends (`PCREGS_COUNT` = 2 D11, `MAIN_MEM_SIZE` = 0x800000 D12), `BYTE_XOR` = 0 as R64 allows,
and 0 or false elsewhere.
DESIGN CHOICE (log entries 1 and 11): the statements that rest on these values are those that write
out words of the default tables or name the reset state. -/
def Config.default : Config where
  pcregsBits := 1
  mainMemBits := 23
  byteXor := 0
  spCompletionDelay := 0
  dpInterruptDelay := 0
  execMaxSteps := 0
  pcMask := 0x00000FFF
  flagBits := .spec
  cmdBits := .spec
  lmByteOrder := .big
  deliveryClearsLock := false
  intrSetCall := .schedulePending
  audioSignalEnabled := false
  audioHleMode := false
  skipFreezeCheck := false

/-! ## Vocabulary of the collaborators -/

/-- The eight registers of the control bank, in index order (R21). -/
inductive CtrlReg where
  | memAddr | dramAddr | rdLen | wrLen | status | dmaFull | dmaBusy | semaphore
deriving DecidableEq, Repr

/-- The interrupt sources the block uses (R103, R281): only the coprocessor interrupt. -/
inductive IntrSource where
  | sp
deriving DecidableEq, Repr

/-- The kinds of timeline event the block schedules (R103, R281). -/
inductive EventKind where
  /-- the coprocessor-completion interrupt event -/
  | spInt
  /-- the display-interrupt event -/
  | dpInt
deriving DecidableEq, Repr

/-- One scheduled event, `(kind, delay)` (R34 (b)). -/
structure Event where
  kind : EventKind
  delay : Nat
deriving DecidableEq, Repr

/-- The two executors (R34 (e)): `runUntilYield` and `runUntilYieldAudio`. -/
inductive ExecKind where
  | primary | audio
deriving DecidableEq, Repr

/-- One change of the environment that a collaborator makes to its own state, between two steps of
the block (R291) or inside an executor call (R246). -/
inductive EnvEdit where
  /-- The raster stage's frozen condition (R34 (c)). -/
  | frozen (b : Bool)
  /-- The raster stage's framebuffer-protection condition (R34 (c)). -/
  | fbProtected (b : Bool)
  /-- The raster stage's interrupt flag (R34 (c)). -/
  | rasterIntr (b : Bool)
  /-- The interrupt controller's pending condition of source `SP` (R34 (a)). -/
  | spPending (b : Bool)
  /-- The timeline fires one `DP_INT` event, which is nothing to the block (R283, U23). -/
  | fireDpInt
  /-- Another agent stores a byte in main memory, seen at logical address `a` (R291, R64). -/
  | main (a : Nat) (b : Byte)
deriving DecidableEq, Repr

/-- One change that an executor makes while it runs (R246, D21): a byte of local memory, a word of
either register bank, main memory, or the environment state of R34 (a) to (c). Every content of that
state is reached by a finite list of such changes. -/
inductive ExecEdit where
  | env (e : EnvEdit)
  | schedule (e : Event)
  | unschedule (k : EventKind)
  | ctrl (r : CtrlReg) (v : Word)
  | pr (k : Nat) (v : Word)
  | lm (a : Nat) (b : Byte)
deriving DecidableEq, Repr

/-- What an executor call may depend on: which executor, how many calls came before, and all the
state it can reach (R246). -/
structure ExecView where
  kind : ExecKind
  number : Nat
  config : Config
  lm : List (Nat × Byte)
  ctrl : List Word
  pc : Word
  pcRegs : List (Nat × Word)
  main : List (Nat × Byte)
  spPending : Bool
  timeline : List Event
  frozen : Bool
  fbProtected : Bool
  rasterIntr : Bool

/-- FREE VALUE. What an executor call changes, where the state carries no scripted answer for it
(U1: "any value"; R246: "Nothing is promised about them"). It has no body, so no proof can see it
(log entry 4). -/
opaque Config.executor : ExecView → List ExecEdit

end Sys2Proof
end

