-- ==== Sys2Proof/Syntax.lean ====
section
/-! DEFINITION. The operations of the block, one constructor for each row of the operation table
(30_encoding.md R90, R100), the commands of a STATUS write, and the port word that carries one
operation into the block. -/

namespace Sys2Proof

/-- The operations, in the table's order. Operands are the fields of an operation's encoding;
what R90 calls the state-held words (registers, tag) are read by the meanings. -/
inductive Instr where
  /-- `RD.MEM_ADDR` (R121) -/
  | rdMemAddr
  /-- `RD.DRAM_ADDR` (R122) -/
  | rdDramAddr
  /-- `RD.RD_LEN` (R123) -/
  | rdRdLen
  /-- `RD.WR_LEN` (R124) -/
  | rdWrLen
  /-- `RD.STATUS` (R125) -/
  | rdStatus
  /-- `RD.DMA_FULL` (R126) -/
  | rdDmaFull
  /-- `RD.DMA_BUSY` (R127) -/
  | rdDmaBusy
  /-- `RD.SEMAPHORE` (R128) -/
  | rdSemaphore
  /-- `WR.MEM_ADDR` (R129) -/
  | wrMemAddr (wdata wmask : Word)
  /-- `WR.DRAM_ADDR` (R130) -/
  | wrDramAddr (wdata wmask : Word)
  /-- `WR.RD_LEN` (R131) -/
  | wrRdLen (wdata wmask : Word)
  /-- `WR.WR_LEN` (R132) -/
  | wrWrLen (wdata wmask : Word)
  /-- `WR.STATUS` (R133) -/
  | wrStatus (wdata wmask : Word)
  /-- `WR.DMA_FULL` (R134) -/
  | wrDmaFull (wdata wmask : Word)
  /-- `WR.DMA_BUSY` (R135) -/
  | wrDmaBusy (wdata wmask : Word)
  /-- `WR.SEMAPHORE` (R136) -/
  | wrSemaphore (wdata wmask : Word)
  /-- `RD.PC` (R137) -/
  | rdPc
  /-- `WR.PC` (R138) -/
  | wrPc (wdata wmask : Word)
  /-- `RD.PCREG` (R139): `k` is the index in the secondary bank, `addr[31:2]` reduced. -/
  | rdPcreg (k : BitVec 30)
  /-- `WR.PCREG` (R140) -/
  | wrPcreg (k : BitVec 30) (wdata wmask : Word)
  /-- `RD.MEM` (R141): `a` is the word index `addr[12:2]`. -/
  | rdMem (a : BitVec 11)
  /-- `WR.MEM` (R142) -/
  | wrMem (a : BitVec 11) (wdata wmask : Word)
  /-- `CLR_HALT` (R161) -/
  | clrHalt
  /-- `SET_HALT` (R162) -/
  | setHalt
  /-- `CLR_BROKE` (R163) -/
  | clrBroke
  /-- `CLR_INTR` (R165) -/
  | clrIntr
  /-- `SET_INTR` (R166) -/
  | setIntr
  /-- `CLR_SSTEP` (R167) -/
  | clrSstep
  /-- `SET_SSTEP` (R168) -/
  | setSstep
  /-- `CLR_INTR_BREAK` (R169) -/
  | clrIntrBreak
  /-- `SET_INTR_BREAK` (R170) -/
  | setIntrBreak
  /-- `CLR_SIG0` (R171) -/
  | clrSig0
  /-- `SET_SIG0` (R172) -/
  | setSig0
  /-- `CLR_SIG1` (R173) -/
  | clrSig1
  /-- `SET_SIG1` (R174) -/
  | setSig1
  /-- `CLR_SIG2` (R175) -/
  | clrSig2
  /-- `SET_SIG2` (R176) -/
  | setSig2
  /-- `CLR_SIG3` (R177) -/
  | clrSig3
  /-- `SET_SIG3` (R178) -/
  | setSig3
  /-- `CLR_SIG4` (R179) -/
  | clrSig4
  /-- `SET_SIG4` (R180) -/
  | setSig4
  /-- `CLR_SIG5` (R181) -/
  | clrSig5
  /-- `SET_SIG5` (R182) -/
  | setSig5
  /-- `CLR_SIG6` (R183) -/
  | clrSig6
  /-- `SET_SIG6` (R184) -/
  | setSig6
  /-- `CLR_SIG7` (R185) -/
  | clrSig7
  /-- `SET_SIG7` (R186) -/
  | setSig7
  /-- `DMA.TO_LOCAL` (R215): the fields `s`, `c` (count minus 1) and `l` of its length word (R96). -/
  | dmaToLocal (skip : BitVec 12) (countM1 : BitVec 8) (rawlen : BitVec 12)
  /-- `DMA.TO_MAIN` (R216) -/
  | dmaToMain (skip : BitVec 12) (countM1 : BitVec 8) (rawlen : BitVec 12)
  /-- `DISPATCH.GFX` (R242): tag 1 -/
  | dispatchGfx
  /-- `DISPATCH.AUDIO` (R243): tag 2 -/
  | dispatchAudio
  /-- `DISPATCH.OTHER` (R244): any other tag -/
  | dispatchOther (tag : Word)
  /-- `POSTRUN` (R247) -/
  | postrun
  /-- `DELIVER.SP_INT` (R248) -/
  | deliverSpInt
  /-- `REDISPATCH` (R249) -/
  | redispatch
  /-- `RESET` (R310) -/
  | reset
deriving DecidableEq, Repr

/-- The 25 commands a word written to STATUS can carry (R95). -/
inductive Command where
  | clrHalt | setHalt | clrBroke | clrIntr | setIntr | clrSstep | setSstep
  | clrIntrBreak | setIntrBreak
  | clrSig (n : Fin 8) | setSig (n : Fin 8)
deriving DecidableEq, Repr

/-- One operation as it arrives at the block's ports: the `BUS` tuple of R90, with `sel` for the
format, the bank and the direction. `word` is `addr` for a bus transaction, the word delivered to
STATUS, the length word, or the tag. The numbering of `sel` is the model's (log entry 2). -/
structure PortWord where
  sel : Byte
  word : Word
  wdata : Word
  wmask : Word
deriving DecidableEq, Repr

end Sys2Proof
end

