-- ==== Sys2Proof/Decode.lean ====
section
/-! DEFINITION. The decoder and the encoder (30_encoding.md R90 to R98): total on any port word and
on any bytes, rejecting by name what is no operation. Addresses are reduced here, once, as the
block's port does (R67, R91 to R93). -/

namespace Sys2Proof

/-- Why a word or a run of bytes is no operation of the block. Both come from the model's own
packing (log entry 2): the spec has no illegal encoding (R99). -/
inductive Reject where
  /-- The selector byte names none of the formats of R90. -/
  | unknownFormat (sel : Byte)
  /-- Fewer bytes than one port word has. -/
  | truncated
deriving DecidableEq, Repr

/-- The formats of R90, with the bank and direction of a bus transaction, the direction of a length
word and the three port events told apart. -/
inductive Format where
  | statusCmd
  | ctrlRead | ctrlWrite | pcRead | pcWrite | memRead | memWrite
  | lenToLocal | lenToMain
  | tag
  | postrun
  | deliverSpInt | redispatch | reset
deriving DecidableEq, Repr

/-- The selector byte of each format (DESIGN CHOICE, log entry 2). -/
def Format.sel : Format → Byte
  | .statusCmd => 0
  | .ctrlRead => 1
  | .ctrlWrite => 2
  | .pcRead => 3
  | .pcWrite => 4
  | .memRead => 5
  | .memWrite => 6
  | .lenToLocal => 7
  | .lenToMain => 8
  | .tag => 9
  | .postrun => 10
  | .deliverSpInt => 11
  | .redispatch => 12
  | .reset => 13

def Format.all : List Format :=
  [.statusCmd, .ctrlRead, .ctrlWrite, .pcRead, .pcWrite, .memRead, .memWrite,
    .lenToLocal, .lenToMain, .tag, .postrun, .deliverSpInt, .redispatch, .reset]

def Format.ofSel (sel : Byte) : Option Format := Format.all.find? (fun f => f.sel == sel)

/-! ## The word written to STATUS -/

/-- The bit of a command in the word written to STATUS, by the table `STATUS_CMD_BIT` (R95). -/
def Command.bit (c : Command) (b : CmdBits) : Nat :=
  match c with
  | .clrHalt => b.clrHalt
  | .setHalt => b.setHalt
  | .clrBroke => b.clrBroke
  | .clrIntr => b.clrIntr
  | .setIntr => b.setIntr
  | .clrSstep => b.clrSstep
  | .setSstep => b.setSstep
  | .clrIntrBreak => b.clrIntrBreak
  | .setIntrBreak => b.setIntrBreak
  | .clrSig n => b.clrSig.get n
  | .setSig n => b.setSig.get n

/-- The commands in the order of the table of R95. -/
def Command.all : List Command :=
  [.clrHalt, .setHalt, .clrBroke, .clrIntr, .setIntr, .clrSstep, .setSstep, .clrIntrBreak,
    .setIntrBreak, .clrSig 0, .setSig 0, .clrSig 1, .setSig 1, .clrSig 2, .setSig 2, .clrSig 3,
    .setSig 3, .clrSig 4, .setSig 4, .clrSig 5, .setSig 5, .clrSig 6, .setSig 6, .clrSig 7,
    .setSig 7]

/-- The word that carries one command alone. -/
def Command.word (c : Command) (b : CmdBits) : Word := BitVec.ofNat 32 (2 ^ c.bit b)

/-- Command `c` is present in the word `w` delivered to STATUS. -/
def Command.present (c : Command) (b : CmdBits) (w : Word) : Bool := w.getLsbD (c.bit b)

def Command.instr : Command → Instr
  | .clrHalt => .clrHalt
  | .setHalt => .setHalt
  | .clrBroke => .clrBroke
  | .clrIntr => .clrIntr
  | .setIntr => .setIntr
  | .clrSstep => .clrSstep
  | .setSstep => .setSstep
  | .clrIntrBreak => .clrIntrBreak
  | .setIntrBreak => .setIntrBreak
  | .clrSig 0 => .clrSig0
  | .clrSig 1 => .clrSig1
  | .clrSig 2 => .clrSig2
  | .clrSig 3 => .clrSig3
  | .clrSig 4 => .clrSig4
  | .clrSig 5 => .clrSig5
  | .clrSig 6 => .clrSig6
  | .clrSig 7 => .clrSig7
  | .setSig 0 => .setSig0
  | .setSig 1 => .setSig1
  | .setSig 2 => .setSig2
  | .setSig 3 => .setSig3
  | .setSig 4 => .setSig4
  | .setSig 5 => .setSig5
  | .setSig 6 => .setSig6
  | .setSig 7 => .setSig7

/-- The word `w` delivered to STATUS: a word with exactly one command is that command's row; any
other (none, or several, which R160 executes together) is the STATUS write that carries it. The bits
without a command are ignored (R164, R187). -/
def decodeStatusCmd (b : CmdBits) (w : Word) : Instr :=
  match Command.all.filter (fun c => c.present b w) with
  | [c] => c.instr
  | _ => .wrStatus w (BitVec.allOnes 32)

/-! ## Bus addresses -/

/-- `addr[4:2]` (R91). -/
def ctrlIndex (addr : Word) : BitVec 3 := addr.extractLsb' 2 3

/-- `(addr >> 2) & (PCREGS_COUNT - 1)` (R92). -/
def pcIndex (c : Config) (addr : Word) : BitVec 30 :=
  BitVec.ofNat 30 ((addr.toNat >>> 2) &&& (c.pcregsCount - 1))

/-- `addr[12:2]`, the word of local memory that `addr & 0x1FFC` addresses (R93). -/
def memIndex (addr : Word) : BitVec 11 := addr.extractLsb' 2 11

/-- The row of a control-bank read (R91, R121 to R128). -/
def decodeCtrlRead (addr : Word) : Instr :=
  match (ctrlIndex addr).toNat with
  | 0 => .rdMemAddr
  | 1 => .rdDramAddr
  | 2 => .rdRdLen
  | 3 => .rdWrLen
  | 4 => .rdStatus
  | 5 => .rdDmaFull
  | 6 => .rdDmaBusy
  | _ => .rdSemaphore

/-- The row of a control-bank write (R91, R129 to R136). -/
def decodeCtrlWrite (addr v m : Word) : Instr :=
  match (ctrlIndex addr).toNat with
  | 0 => .wrMemAddr v m
  | 1 => .wrDramAddr v m
  | 2 => .wrRdLen v m
  | 3 => .wrWrLen v m
  | 4 => .wrStatus v m
  | 5 => .wrDmaFull v m
  | 6 => .wrDmaBusy v m
  | _ => .wrSemaphore v m

/-- The row of a secondary-bank read (R92, R137, R139). -/
def decodePcRead (c : Config) (addr : Word) : Instr :=
  if pcIndex c addr = 0 then .rdPc else .rdPcreg (pcIndex c addr)

/-- The row of a secondary-bank write (R92, R138, R140). -/
def decodePcWrite (c : Config) (addr v m : Word) : Instr :=
  if pcIndex c addr = 0 then .wrPc v m else .wrPcreg (pcIndex c addr) v m

/-! ## Length word and tag -/

/-- Bits [31:20] of a length word: `skip` (R96). -/
def lenSkip (l : Word) : BitVec 12 := l.extractLsb' 20 12

/-- Bits [19:12] of a length word: `count-1` (R96). -/
def lenCountM1 (l : Word) : BitVec 8 := l.extractLsb' 12 8

/-- Bits [11:0] of a length word: `rawlen` (R96). -/
def lenRaw (l : Word) : BitVec 12 := l.extractLsb' 0 12

/-- The length word with these fields (R96, `LEN` of R102). -/
def lenWord (skip : BitVec 12) (countM1 : BitVec 8) (rawlen : BitVec 12) : Word :=
  skip ++ countM1 ++ rawlen

/-- The dispatch path a tag selects (R98). -/
def decodeTag (tag : Word) : Instr :=
  if tag = 1 then .dispatchGfx
  else if tag = 2 then .dispatchAudio
  else .dispatchOther tag

/-! ## The port word -/

/-- The operation a port word carries, on a block with the parameters `c`. -/
def decode (c : Config) (p : PortWord) : Except Reject Instr :=
  match Format.ofSel p.sel with
  | none => .error (.unknownFormat p.sel)
  | some .statusCmd => .ok (decodeStatusCmd c.cmdBits p.word)
  | some .ctrlRead => .ok (decodeCtrlRead p.word)
  | some .ctrlWrite => .ok (decodeCtrlWrite p.word p.wdata p.wmask)
  | some .pcRead => .ok (decodePcRead c p.word)
  | some .pcWrite => .ok (decodePcWrite c p.word p.wdata p.wmask)
  | some .memRead => .ok (.rdMem (memIndex p.word))
  | some .memWrite => .ok (.wrMem (memIndex p.word) p.wdata p.wmask)
  | some .lenToLocal => .ok (.dmaToLocal (lenSkip p.word) (lenCountM1 p.word) (lenRaw p.word))
  | some .lenToMain => .ok (.dmaToMain (lenSkip p.word) (lenCountM1 p.word) (lenRaw p.word))
  | some .tag => .ok (decodeTag p.word)
  | some .postrun => .ok .postrun
  | some .deliverSpInt => .ok .deliverSpInt
  | some .redispatch => .ok .redispatch
  | some .reset => .ok .reset

/-! ## The port word as bits and as bytes -/

/-- How many bytes one port word has; R90: "All formats have one fixed length". -/
def portWordBytes : Nat := 13

/-- The port word whose bits are `w`: `word` in bits 31:0, where the operation table numbers the
bits of a row, `wdata` in 63:32, `wmask` in 95:64, the selector in 103:96 (log entry 2). -/
def PortWord.ofNat (w : Nat) : PortWord where
  word := BitVec.ofNat 32 w
  wdata := BitVec.ofNat 32 (w >>> 32)
  wmask := BitVec.ofNat 32 (w >>> 64)
  sel := BitVec.ofNat 8 (w >>> 96)

/-- The number whose little-endian bytes are `bs`. -/
def natOfBytes : List Byte → Nat
  | [] => 0
  | b :: bs => b.toNat + 256 * natOfBytes bs

/-- The lowest `n` bytes of `w`, least significant first. -/
def bytesOfNat : Nat → Nat → List Byte
  | 0, _ => []
  | n + 1, w => BitVec.ofNat 8 w :: bytesOfNat n (w >>> 8)

/-- Decodes one port word from the front of a run of bytes and answers the rest with it. -/
def decodeBytes (c : Config) (bs : List Byte) : Except Reject (Instr × List Byte) :=
  if bs.length < portWordBytes then .error .truncated
  else
    match decode c (PortWord.ofNat (natOfBytes (bs.take portWordBytes))) with
    | .ok i => .ok (i, bs.drop portWordBytes)
    | .error r => .error r

/-- The operation the decoder reads from a row's bits `w`, `nbits` of them, with every bit above
them 0, on a block with the reset state's parameters. A row of the table gives the 32 bits of `word`
only, and its bank, direction or format by name; those 32 bits alone (selector 0) are read as the
word delivered to STATUS (log entry 2). -/
def decodeTableWord (nbits w : Nat) : Option Instr :=
  match decodeBytes Config.default (bytesOfNat portWordBytes (w % 2 ^ nbits)) with
  | .ok (i, _) => some i
  | .error _ => none

/-! ## Encoder -/

/-- The control-bank address of index `k` (R91). -/
def ctrlAddr (k : Nat) : Word := BitVec.ofNat 32 (4 * k)

/-- The secondary-bank address of index `k` (R92). -/
def pcAddr (k : BitVec 30) : Word := k ++ 0#2

/-- The local-memory bus address of word `a` (R93). -/
def memAddrOf (a : BitVec 11) : Word := BitVec.ofNat 32 (4 * a.toNat)

def encodeRead (f : Format) (addr : Word) : PortWord := ⟨f.sel, addr, 0, 0⟩

def encodeWrite (f : Format) (addr v m : Word) : PortWord := ⟨f.sel, addr, v, m⟩

/-- A port word whose one operand is `word`, or which has none. -/
def encodeWord (f : Format) (word : Word) : PortWord := ⟨f.sel, word, 0, 0⟩

def encodeCommand (b : CmdBits) (c : Command) : PortWord := encodeWord .statusCmd (c.word b)

/-- The port word of an operation on a block with the parameters `c`, written from the tables of
30_encoding.md. -/
def encode (c : Config) (i : Instr) : PortWord :=
  match i with
  | .rdMemAddr => encodeRead .ctrlRead (ctrlAddr 0)
  | .rdDramAddr => encodeRead .ctrlRead (ctrlAddr 1)
  | .rdRdLen => encodeRead .ctrlRead (ctrlAddr 2)
  | .rdWrLen => encodeRead .ctrlRead (ctrlAddr 3)
  | .rdStatus => encodeRead .ctrlRead (ctrlAddr 4)
  | .rdDmaFull => encodeRead .ctrlRead (ctrlAddr 5)
  | .rdDmaBusy => encodeRead .ctrlRead (ctrlAddr 6)
  | .rdSemaphore => encodeRead .ctrlRead (ctrlAddr 7)
  | .wrMemAddr v m => encodeWrite .ctrlWrite (ctrlAddr 0) v m
  | .wrDramAddr v m => encodeWrite .ctrlWrite (ctrlAddr 1) v m
  | .wrRdLen v m => encodeWrite .ctrlWrite (ctrlAddr 2) v m
  | .wrWrLen v m => encodeWrite .ctrlWrite (ctrlAddr 3) v m
  | .wrStatus v m => encodeWrite .ctrlWrite (ctrlAddr 4) v m
  | .wrDmaFull v m => encodeWrite .ctrlWrite (ctrlAddr 5) v m
  | .wrDmaBusy v m => encodeWrite .ctrlWrite (ctrlAddr 6) v m
  | .wrSemaphore v m => encodeWrite .ctrlWrite (ctrlAddr 7) v m
  | .rdPc => encodeRead .pcRead (pcAddr 0)
  | .wrPc v m => encodeWrite .pcWrite (pcAddr 0) v m
  | .rdPcreg k => encodeRead .pcRead (pcAddr k)
  | .wrPcreg k v m => encodeWrite .pcWrite (pcAddr k) v m
  | .rdMem a => encodeRead .memRead (memAddrOf a)
  | .wrMem a v m => encodeWrite .memWrite (memAddrOf a) v m
  | .clrHalt => encodeCommand c.cmdBits .clrHalt
  | .setHalt => encodeCommand c.cmdBits .setHalt
  | .clrBroke => encodeCommand c.cmdBits .clrBroke
  | .clrIntr => encodeCommand c.cmdBits .clrIntr
  | .setIntr => encodeCommand c.cmdBits .setIntr
  | .clrSstep => encodeCommand c.cmdBits .clrSstep
  | .setSstep => encodeCommand c.cmdBits .setSstep
  | .clrIntrBreak => encodeCommand c.cmdBits .clrIntrBreak
  | .setIntrBreak => encodeCommand c.cmdBits .setIntrBreak
  | .clrSig0 => encodeCommand c.cmdBits (.clrSig 0)
  | .setSig0 => encodeCommand c.cmdBits (.setSig 0)
  | .clrSig1 => encodeCommand c.cmdBits (.clrSig 1)
  | .setSig1 => encodeCommand c.cmdBits (.setSig 1)
  | .clrSig2 => encodeCommand c.cmdBits (.clrSig 2)
  | .setSig2 => encodeCommand c.cmdBits (.setSig 2)
  | .clrSig3 => encodeCommand c.cmdBits (.clrSig 3)
  | .setSig3 => encodeCommand c.cmdBits (.setSig 3)
  | .clrSig4 => encodeCommand c.cmdBits (.clrSig 4)
  | .setSig4 => encodeCommand c.cmdBits (.setSig 4)
  | .clrSig5 => encodeCommand c.cmdBits (.clrSig 5)
  | .setSig5 => encodeCommand c.cmdBits (.setSig 5)
  | .clrSig6 => encodeCommand c.cmdBits (.clrSig 6)
  | .setSig6 => encodeCommand c.cmdBits (.setSig 6)
  | .clrSig7 => encodeCommand c.cmdBits (.clrSig 7)
  | .setSig7 => encodeCommand c.cmdBits (.setSig 7)
  | .dmaToLocal s n l => encodeWord .lenToLocal (lenWord s n l)
  | .dmaToMain s n l => encodeWord .lenToMain (lenWord s n l)
  | .dispatchGfx => encodeWord .tag 1
  | .dispatchAudio => encodeWord .tag 2
  | .dispatchOther tag => encodeWord .tag tag
  | .postrun => encodeWord .postrun 0
  | .deliverSpInt => encodeWord .deliverSpInt 0
  | .redispatch => encodeWord .redispatch 0
  | .reset => encodeWord .reset 0

end Sys2Proof
end

