-- ==== Sys2Proof/Machine/State.lean ====
section
/-! DEFINITION. The state of the machine: what the block owns (10_state.md R20), the environment it
reaches through its collaborators (R34), the parameters of its construction, and the model's own
fields (the requests to come, the bus read data, the record of collaborator calls, the executor's
answers). All of it is plain data. -/

namespace Sys2Proof.Machine

/-- A byte memory: (address, byte) pairs with strictly rising addresses, none of them listed with
the byte 0 that an unlisted address reads as. -/
abbrev Memory := List Host.Cell

/-- The words of the secondary bank after word 0: (index, word) pairs in the same canonical form,
with unlisted words reading 0. -/
abbrev WordBank := List (Nat × Word)

/-- One call to a collaborator, as the output trace records it (R284; 95_test_vectors.md). The
accessor's byte calls and the question `currentEventPending` are not recorded (log entry 9). -/
inductive Call where
  | raiseInterrupt (src : IntrSource)
  | clearPendingInterrupt (src : IntrSource)
  | schedulePendingInterrupt (src : IntrSource)
  | scheduleEvent (kind : EventKind) (delay : Nat)
  | isFrozen (answer : Bool)
  | unprotectFramebuffers
  | protectFramebuffers
  | consumeInterruptFlag (answer : Bool)
  | newFrame
  | runUntilYield (pc : Word) (maxSteps : Nat)
  | runUntilYieldAudio (pc : Word) (maxSteps : Nat)
deriving DecidableEq, Repr

/-- What the outside world does next: hands the block one operation, or changes its own state
between two steps of the block (R291; the `ENV` lines of R101). -/
inductive Request where
  | port (p : PortWord)
  | env (e : EnvEdit)
deriving DecidableEq, Repr

structure State where
  /-- `LM`, 8192 bytes (R20, R33). -/
  lm : Memory
  /-- `CR[0]` MEM_ADDR (R23). -/
  memAddr : Word
  /-- `CR[1]` DRAM_ADDR (R24). -/
  dramAddr : Word
  /-- `CR[2]` RD_LEN (R25). -/
  rdLen : Word
  /-- `CR[3]` WR_LEN (R26). -/
  wrLen : Word
  /-- `CR[4]` STATUS, the stored flag word (R27). -/
  status : Word
  /-- `CR[5]` DMA_FULL (R29). -/
  dmaFull : Word
  /-- `CR[6]` DMA_BUSY (R29). -/
  dmaBusy : Word
  /-- `CR[7]` SEMAPHORE (R30). -/
  semaphore : Word
  /-- `PR[0]`, the task program counter (R31, R32). -/
  pc : Word
  /-- `PR[1..PCREGS_COUNT-1]` (R31). -/
  pcRegs : WordBank
  /-- `taskLocked` (R35). -/
  taskLocked : Bool
  /-- The interrupt controller's pending condition of source `SP` (R34 (a), R284). -/
  spPending : Bool
  /-- The timeline: the events scheduled and not yet fired, in the order of their scheduling
  (R34 (b)). -/
  timeline : List Event
  /-- The raster stage's frozen condition (R34 (c)). -/
  frozen : Bool
  /-- The raster stage's framebuffer-protection condition (R34 (c)). -/
  fbProtected : Bool
  /-- The raster stage's interrupt flag (R34 (c)). -/
  rasterIntr : Bool
  /-- Main memory, the physical bytes behind the accessor (R34 (d), R64). -/
  main : Memory
  /-- The construction arguments (R5, R6), which no operation changes. -/
  config : Config
  /-- The word the last bus read answered (R90: `rdata`). -/
  rdata : Word
  /-- The output trace: every collaborator call so far, oldest first (R284). -/
  calls : List Call
  /-- The model's own: what the agents do next, in the total order of R72. -/
  requests : List Request
  /-- The model's own: the answers of the next executor calls (the `EXEC` lines of R101, R246). -/
  execScript : List (List ExecEdit)
  /-- The model's own: how many executor calls were made, the counter of the free value. -/
  execCount : Nat
deriving DecidableEq, Repr

/-- Why the machine stops with a fault. There is no such reason: "No operation of this block can
fail, fault, trap or be refused" (R10, R280). -/
inductive Fault where
deriving DecidableEq, Repr

/-- Why a step has no meaning. -/
inductive Refusal where
  /-- Raised by an arm of `exec` whose operation has no meaning yet; none is left. Safe. -/
  | notModelled (mnemonic : String)
  /-- Raised by `step` on a port word that the decoder rejects: its selector byte is none of the
  model's own numbering, so it is no operation of the spec (log entry 2). Safe. -/
  | notAnOperation (why : Reject)
deriving DecidableEq, Repr

/-- The machine right after reset: the block's own state as R37 gives it (STATUS holds the HALT
flag alone, everything else is 0), and the environment and the model's own fields, for which the
spec gives no value, at the values of log entries 1, 5, 6, 7, 8 and 11. -/
def State.reset : State where
  lm := []
  memAddr := 0
  dramAddr := 0
  rdLen := 0
  wrLen := 0
  status := 0x00000001
  dmaFull := 0
  dmaBusy := 0
  semaphore := 0
  pc := 0
  pcRegs := []
  taskLocked := false
  spPending := false
  timeline := []
  frozen := false
  fbProtected := false
  rasterIntr := false
  main := []
  config := Config.default
  rdata := 0
  calls := []
  requests := []
  execScript := []
  execCount := 0

end Sys2Proof.Machine
end

