-- ==== Sys2Proof/Machine/Flags.lean ====
section
/-! DEFINITION. The twelve STATUS flags and what a word written to STATUS does to them
(10_state.md R27, 41_status_commands.md R160). -/

namespace Sys2Proof.Machine

/-- The flags of STATUS (R27, R28). -/
inductive Flag where
  | halt | broke | sstep | intrOnBreak
  | sig (n : Fin 8)
deriving DecidableEq, Repr

/-- The bit of each flag in the stored word, by the table `STATUS_FLAG_BIT` (R27). -/
def flagBit (b : FlagBits) (f : Flag) : Nat :=
  match f with
  | .halt => b.halt
  | .broke => b.broke
  | .sstep => b.sstep
  | .intrOnBreak => b.intrOnBreak
  | .sig n => b.sig.get n

/-- The word with the one bit of flag `f`. -/
def flagMask (b : FlagBits) (f : Flag) : Word := BitVec.ofNat 32 (2 ^ flagBit b f)

/-- Flag `f` of the stored word `st` (R8: `flag(F)`). -/
def testFlag (b : FlagBits) (f : Flag) (st : Word) : Bool := st.getLsbD (flagBit b f)

/-- `setflag(F)` on the stored word (R8). -/
def setFlagIn (b : FlagBits) (f : Flag) (st : Word) : Word := st ||| flagMask b f

/-- `clrflag(F)` on the stored word (R8). -/
def clearFlagIn (b : FlagBits) (f : Flag) (st : Word) : Word := st &&& ~~~(flagMask b f)

/-- The flag a command clears, if it is a clear command of a flag (R161 to R185). -/
def clearedBy : Command → Option Flag
  | .clrHalt => some .halt
  | .clrBroke => some .broke
  | .clrSstep => some .sstep
  | .clrIntrBreak => some .intrOnBreak
  | .clrSig n => some (.sig n)
  | .setHalt | .clrIntr | .setIntr | .setSstep | .setIntrBreak | .setSig _ => none

/-- The flag a command sets, if it is a set command of a flag (R162 to R186). -/
def setBy : Command → Option Flag
  | .setHalt => some .halt
  | .setSstep => some .sstep
  | .setIntrBreak => some .intrOnBreak
  | .setSig n => some (.sig n)
  | .clrHalt | .clrBroke | .clrIntr | .setIntr | .clrSstep | .clrIntrBreak | .clrSig _ => none

/-- One command's part in the clear pass. -/
def clearStep (p : Config) (w : Word) (st : Word) (c : Command) : Word :=
  match clearedBy c with
  | some f => if c.present p.cmdBits w then clearFlagIn p.flagBits f st else st
  | none => st

/-- One command's part in the set pass. -/
def setStep (p : Config) (w : Word) (st : Word) (c : Command) : Word :=
  match setBy c with
  | some f => if c.present p.cmdBits w then setFlagIn p.flagBits f st else st
  | none => st

/-- Part (1) of R160: every flag whose clear command is present in `w` is cleared. -/
def clearPass (p : Config) (w st : Word) : Word := Command.all.foldl (clearStep p w) st

/-- Part (2) of R160: every flag whose set command is present in `w` is set. -/
def setPass (p : Config) (w st : Word) : Word := Command.all.foldl (setStep p w) st

/-- The write cleared HALT or BROKE in the sense of R190: the command is present (D17). -/
def clearsHaltOrBroke (b : CmdBits) (w : Word) : Bool :=
  Command.clrHalt.present b w || Command.clrBroke.present b w

/-- STATUS shows neither HALT nor BROKE: the coprocessor is running (R191). -/
def running (b : FlagBits) (st : Word) : Bool := !testFlag b .halt st && !testFlag b .broke st

end Sys2Proof.Machine
end

