-- ==== Sys2Proof/Machine/Operands.lean ====
section
/-! DEFINITION. Operand assembly: the masked write (40_register_access.md R120), the quantities of a
length word (42_dma.md R211 to R213), the start addresses of a transfer (R214), and words as four
local-memory bytes (20_memory.md R61). -/

namespace Sys2Proof.Machine

/-- `MaskedWrite(old, v, m)` = `(old & ~m) | (v & m)` (R120). -/
def maskedWrite (old v m : Word) : Word := (old &&& ~~~m) ||| (v &&& m)

/-- The row length of a transfer into local memory, `(rawlen | 7) + 1` (R211). -/
def lengthToLocal (rawlen : BitVec 12) : Nat := (rawlen.toNat ||| 7) + 1

/-- The row length of a transfer into main memory, `rawlen + 1` (R211). -/
def lengthToMain (rawlen : BitVec 12) : Nat := rawlen.toNat + 1

/-- `count` of a length word, from its `count-1` (R212). -/
def rowCount (countM1 : BitVec 8) : Nat := countM1.toNat + 1

/-- `skip` of a length word, in bytes (R213). -/
def skipBytes (skip : BitVec 12) : Nat := skip.toNat

/-- The local start address, `CR[MEM_ADDR] & 0x1FFF` (R214, R97). -/
def localStart (memAddr : Word) : Nat := (memAddr &&& 0x1FFF#32).toNat

/-- The main start address, `CR[DRAM_ADDR] & 0x00FFFFFF` (R214, R97). -/
def mainStart (dramAddr : Word) : Nat := (dramAddr &&& 0x00FFFFFF#32).toNat

/-- The byte address of word `a` of local memory, `addr & 0x1FFC` (R93). -/
def wordAddress (a : BitVec 11) : Nat := 4 * a.toNat

/-- The word whose bytes in ascending address order are `b0` to `b3` (R61). -/
def wordOfBytes (o : ByteOrder) (b0 b1 b2 b3 : Byte) : Word :=
  match o with
  | .big => b0 ++ b1 ++ b2 ++ b3
  | .little => b3 ++ b2 ++ b1 ++ b0

/-- The byte of `w` that lies `i` addresses above the word's own, `i` in 0..3 (R61). -/
def byteOfWord (o : ByteOrder) (w : Word) (i : Nat) : Byte :=
  match o with
  | .big => w.extractLsb' (8 * (3 - i)) 8
  | .little => w.extractLsb' (8 * i) 8

end Sys2Proof.Machine
end

