-- ==== Sys2Proof/Machine/Ops.lean ====
section
/-! DEFINITION. The named operations over memories, register banks and collaborators
(00_scope.md R8, 10_state.md R34), raising the coprocessor interrupt (60_exceptions.md R284, R286),
the executor call (43_dispatch.md R246), and what the environment does between steps (R291). -/

namespace Sys2Proof.Machine

/-! ## Sparse storage in canonical form -/

/-- What is listed at `a`, or `d` where nothing is. -/
def Cells.read {β : Type} (d : β) : List (Nat × β) → Nat → β
  | [], _ => d
  | (k, v) :: rest, a => if k = a then v else Cells.read d rest a

/-- Stores `b` at `a`, keeping the addresses rising and listing no `d`. -/
def Cells.write {β : Type} [DecidableEq β] (d : β) : List (Nat × β) → Nat → β → List (Nat × β)
  | [], a, b => if b = d then [] else [(a, b)]
  | (k, v) :: rest, a, b =>
    if a < k then (if b = d then (k, v) :: rest else (a, b) :: (k, v) :: rest)
    else if k = a then (if b = d then rest else (a, b) :: rest)
    else (k, v) :: Cells.write d rest a b

/-- The canonical form: strictly rising addresses and no entry equal to `d`. -/
abbrev Cells.wf {β : Type} (d : β) (m : List (Nat × β)) : Prop :=
  m.Pairwise (fun x y => x.1 < y.1) ∧ ∀ c ∈ m, c.2 ≠ d

/-- Every listed address lies below `n`. -/
abbrev Cells.below {β : Type} (n : Nat) (m : List (Nat × β)) : Prop := ∀ c ∈ m, c.1 < n

/-- What an unlisted byte reads as: the reset value 0x00 of local memory (R37), and for main
memory a DESIGN CHOICE (log entry 5). -/
def unlistedByte : Byte := 0x00

/-- Reads one byte. -/
def Memory.read (m : Memory) (a : Nat) : Byte := Cells.read unlistedByte m a

/-- Writes one byte. -/
def Memory.write (m : Memory) (a : Nat) (b : Byte) : Memory := Cells.write unlistedByte m a b

/-- The canonical form of a byte memory. -/
abbrev Memory.wf (m : Memory) : Prop := Cells.wf unlistedByte m

/-! ## Local memory -/

/-- The byte `LM[a mod 8192]` (R65). -/
def State.lmRead (s : State) (a : Nat) : Byte := s.lm.read (a % localMemSize)

/-- A byte stored in a local memory at `a mod 8192` (R65). -/
def lmPut (m : Memory) (a : Nat) (b : Byte) : Memory := m.write (a % localMemSize) b

/-- `LM[a mod 8192] <- b`. -/
def State.lmWrite (s : State) (a : Nat) (b : Byte) : State := { s with lm := lmPut s.lm a b }

/-- `LMW(a)` (R61). -/
def State.lmWord (s : State) (a : Nat) : Word :=
  wordOfBytes s.config.lmByteOrder (s.lmRead a) (s.lmRead (a + 1)) (s.lmRead (a + 2))
    (s.lmRead (a + 3))

/-- Stores the word `w` at `a` (R61). -/
def State.lmWriteWord (s : State) (a : Nat) (w : Word) : State :=
  (((s.lmWrite a (byteOfWord s.config.lmByteOrder w 0)).lmWrite (a + 1)
    (byteOfWord s.config.lmByteOrder w 1)).lmWrite (a + 2)
    (byteOfWord s.config.lmByteOrder w 2)).lmWrite (a + 3)
    (byteOfWord s.config.lmByteOrder w 3)

/-! ## Main memory, through the accessor -/

/-- The index in the physical array `DRAM` of logical main address `a`: reduced to the size of the
address space (R66), then corrected, `a ^ BYTE_XOR` (R64). The last reduction matters only for a
main memory of fewer than four bytes (log entry 10). -/
def physAddr (c : Config) (a : Nat) : Nat :=
  ((a % c.mainMemSize) ^^^ c.byteXor.toNat) % c.mainMemSize

/-- `MainRead(a mod MAIN_MEM_SIZE)` (R64, R66). -/
def State.mainRead (s : State) (a : Nat) : Byte := s.main.read (physAddr s.config a)

/-- A byte stored in a main memory through the accessor. -/
def mainPut (c : Config) (m : Memory) (a : Nat) (b : Byte) : Memory := m.write (physAddr c a) b

/-- `MainWrite(a mod MAIN_MEM_SIZE, b)` (R64, R66). -/
def State.mainWrite (s : State) (a : Nat) (b : Byte) : State :=
  { s with main := mainPut s.config s.main a b }

/-! ## Register banks -/

/-- `CR[r]` (R21). -/
def State.ctrl (s : State) : CtrlReg → Word
  | .memAddr => s.memAddr
  | .dramAddr => s.dramAddr
  | .rdLen => s.rdLen
  | .wrLen => s.wrLen
  | .status => s.status
  | .dmaFull => s.dmaFull
  | .dmaBusy => s.dmaBusy
  | .semaphore => s.semaphore

/-- `CR[r] <- v` (R21): all 32 bits are stored. -/
def State.setCtrl (s : State) (r : CtrlReg) (v : Word) : State :=
  match r with
  | .memAddr => { s with memAddr := v }
  | .dramAddr => { s with dramAddr := v }
  | .rdLen => { s with rdLen := v }
  | .wrLen => { s with wrLen := v }
  | .status => { s with status := v }
  | .dmaFull => { s with dmaFull := v }
  | .dmaBusy => { s with dmaBusy := v }
  | .semaphore => { s with semaphore := v }

/-- `CR[r] <- MaskedWrite(CR[r], v, m)` (R120). -/
def State.maskCtrl (s : State) (r : CtrlReg) (v m : Word) : State :=
  s.setCtrl r (maskedWrite (s.ctrl r) v m)

/-- The index `k` reduced to the secondary bank (R67). -/
def State.prIndex (s : State) (k : Nat) : Nat := k % s.config.pcregsCount

/-- `PR[k]` (R31), with word 0 the program counter. -/
def State.pr (s : State) (k : Nat) : Word :=
  if s.prIndex k = 0 then s.pc else Cells.read 0#32 s.pcRegs (s.prIndex k)

/-- `PR[k] <- v` (R31). -/
def State.setPr (s : State) (k : Nat) (v : Word) : State :=
  if s.prIndex k = 0 then { s with pc := v }
  else { s with pcRegs := Cells.write 0#32 s.pcRegs (s.prIndex k) v }

/-- A bus read answers `v` (R90: `rdata`). -/
def State.answer (s : State) (v : Word) : State := { s with rdata := v }

/-- `flag(F)` (R8). -/
def State.flag (s : State) (f : Flag) : Bool :=
  testFlag s.config.flagBits f s.status

/-- `setflag(F)` (R8). -/
def State.setFlag (s : State) (f : Flag) : State :=
  { s with status := setFlagIn s.config.flagBits f s.status }

/-- `clrflag(F)` (R8). -/
def State.clearFlag (s : State) (f : Flag) : State :=
  { s with status := clearFlagIn s.config.flagBits f s.status }

/-- STATUS shows neither HALT nor BROKE (R191). -/
def State.isRunning (s : State) : Bool := running s.config.flagBits s.status

/-! ## Collaborator calls -/

/-- Appends one call to the output trace (R284). -/
def State.record (s : State) (c : Call) : State := { s with calls := s.calls ++ [c] }

/-- `raiseInterrupt(SP)`: the block's whole part in an interrupt (R284, R286). It saves nothing,
changes no mode and goes to no handler. -/
def State.raiseInterrupt (s : State) : State :=
  { s.record (.raiseInterrupt .sp) with spPending := true }

/-- `schedulePendingInterrupt(SP)` (R284). -/
def State.schedulePendingInterrupt (s : State) : State :=
  { s.record (.schedulePendingInterrupt .sp) with spPending := true }

/-- `clearPendingInterrupt(SP)` (R284): how a handler acknowledges the interrupt (R287). -/
def State.clearPendingInterrupt (s : State) : State :=
  { s.record (.clearPendingInterrupt .sp) with spPending := false }

/-- The call of the SET_INTR command, the parameter `INTR_SET_CALL` (R166). -/
def State.intrSetCall (s : State) : State :=
  match s.config.intrSetCall with
  | .schedulePending => s.schedulePendingInterrupt
  | .raise => s.raiseInterrupt

/-- `scheduleEvent(kind, delay)` (R34 (b)). -/
def State.scheduleEvent (s : State) (k : EventKind) (delay : Nat) : State :=
  { s.record (.scheduleEvent k delay) with timeline := s.timeline ++ [⟨k, delay⟩] }

/-- `currentEventPending(kind)` (R34 (b)). -/
def State.eventPending (s : State) (k : EventKind) : Bool := s.timeline.any (fun e => e.kind == k)

/-- One event of kind `k` stops being pending (R248). -/
def State.fireEvent (s : State) (k : EventKind) : State :=
  { s with timeline := s.timeline.eraseP (fun e => e.kind == k) }

/-- `unprotectFramebuffers()` (R34 (c)). -/
def State.unprotectFramebuffers (s : State) : State :=
  { s.record .unprotectFramebuffers with fbProtected := false }

/-- `protectFramebuffers()` (R34 (c)). -/
def State.protectFramebuffers (s : State) : State :=
  { s.record .protectFramebuffers with fbProtected := true }

/-- `newFrame()` (R242, D24). -/
def State.newFrame (s : State) : State := s.record .newFrame

/-- `if consumeInterruptFlag() then scheduleEvent(DP_INT, DP_INTERRUPT_DELAY)`: the question reads
the raster stage's interrupt flag and leaves it clear (R242, R283). -/
def State.displayEvent (s : State) : State :=
  let asked := { s.record (.consumeInterruptFlag s.rasterIntr) with rasterIntr := false }
  if s.rasterIntr then asked.scheduleEvent .dpInt s.config.dpInterruptDelay else asked

/-! ## The environment between steps, and the executor -/

/-- One change of the environment (R291). -/
def State.applyEnv (s : State) : EnvEdit → State
  | .frozen b => { s with frozen := b }
  | .fbProtected b => { s with fbProtected := b }
  | .rasterIntr b => { s with rasterIntr := b }
  | .spPending b => { s with spPending := b }
  | .fireDpInt => s.fireEvent .dpInt
  | .main a b => s.mainWrite a b

/-- One change an executor makes (R246). -/
def State.applyExec (s : State) : ExecEdit → State
  | .env e => s.applyEnv e
  | .schedule e => { s with timeline := s.timeline ++ [e] }
  | .unschedule k => s.fireEvent k
  | .ctrl r v => s.setCtrl r v
  | .pr k v => s.setPr k v
  | .lm a b => s.lmWrite a b

/-- All the changes of one executor call, in their order. -/
def State.applyExecs (s : State) (es : List ExecEdit) : State := es.foldl State.applyExec s

/-- What an executor call sees (R246: "the state as the dispatcher left it just before the call",
R70). -/
def State.execView (s : State) (k : ExecKind) : ExecView where
  kind := k
  number := s.execCount
  config := s.config
  lm := s.lm
  ctrl := [s.memAddr, s.dramAddr, s.rdLen, s.wrLen, s.status, s.dmaFull, s.dmaBusy, s.semaphore]
  pc := s.pc
  pcRegs := s.pcRegs
  main := s.main
  spPending := s.spPending
  timeline := s.timeline
  frozen := s.frozen
  fbProtected := s.fbProtected
  rasterIntr := s.rasterIntr

/-- What the next executor call changes: the next answer of the script, or the free value. -/
def State.execAnswer (s : State) (k : ExecKind) : List ExecEdit :=
  match s.execScript with
  | es :: _ => es
  | [] => Config.executor (s.execView k)

/-- The call itself, as the trace records it: the program counter the executor sees, and
`EXEC_MAX_STEPS` (R246). -/
def State.execCallRecord (s : State) : ExecKind → Call
  | .primary => .runUntilYield s.pc s.config.execMaxSteps
  | .audio => .runUntilYieldAudio s.pc s.config.execMaxSteps

/-- The executor call (R246): it is recorded, makes its changes and returns (U2). -/
def State.execCall (s : State) (k : ExecKind) : State :=
  let ran := (s.record (s.execCallRecord k)).applyExecs (s.execAnswer k)
  { ran with execScript := s.execScript.tail, execCount := s.execCount + 1 }

/-! ## Reset -/

/-- The block's own state takes its reset values (R37), STATUS the HALT flag alone where this block
keeps it; the environment, the parameters and the
model's own fields stay (R310). -/
def State.resetBlock (s : State) : State :=
  { s with
    lm := State.reset.lm
    memAddr := State.reset.memAddr
    dramAddr := State.reset.dramAddr
    rdLen := State.reset.rdLen
    wrLen := State.reset.wrLen
    status := flagMask s.config.flagBits .halt
    dmaFull := State.reset.dmaFull
    dmaBusy := State.reset.dmaBusy
    semaphore := State.reset.semaphore
    pc := State.reset.pc
    pcRegs := State.reset.pcRegs
    taskLocked := State.reset.taskLocked }

end Sys2Proof.Machine
end

