-- ==== Sys2Proof/Machine/BusRead.lean ====
section
/-! DEFINITION. The bus reads (40_register_access.md R121 to R128, R137, R139, R141). -/

namespace Sys2Proof.Machine

/-- `RD.MEM_ADDR` (R121). -/
def execRdMemAddr (s : State) : Host.Outcome State Fault Refusal :=
  .next (s.answer (s.ctrl .memAddr))

/-- `RD.DRAM_ADDR` (R122). -/
def execRdDramAddr (s : State) : Host.Outcome State Fault Refusal :=
  .next (s.answer (s.ctrl .dramAddr))

/-- `RD.RD_LEN` (R123): reading starts no transfer. -/
def execRdRdLen (s : State) : Host.Outcome State Fault Refusal :=
  .next (s.answer (s.ctrl .rdLen))

/-- `RD.WR_LEN` (R124): reading starts no transfer. -/
def execRdWrLen (s : State) : Host.Outcome State Fault Refusal :=
  .next (s.answer (s.ctrl .wrLen))

/-- `RD.STATUS` (R125): the stored flag word. -/
def execRdStatus (s : State) : Host.Outcome State Fault Refusal :=
  .next (s.answer (s.ctrl .status))

/-- `RD.DMA_FULL` (R126). -/
def execRdDmaFull (s : State) : Host.Outcome State Fault Refusal :=
  .next (s.answer (s.ctrl .dmaFull))

/-- `RD.DMA_BUSY` (R127). -/
def execRdDmaBusy (s : State) : Host.Outcome State Fault Refusal :=
  .next (s.answer (s.ctrl .dmaBusy))

/-- `RD.SEMAPHORE` (R128): the old value is answered and 1 is left. -/
def execRdSemaphore (s : State) : Host.Outcome State Fault Refusal :=
  .next ((s.answer (s.ctrl .semaphore)).setCtrl .semaphore 1)

/-- `RD.PC` (R137). -/
def execRdPc (s : State) : Host.Outcome State Fault Refusal :=
  .next (s.answer (s.pr 0))

/-- `RD.PCREG` (R139). -/
def execRdPcreg (k : BitVec 30) (s : State) : Host.Outcome State Fault Refusal :=
  .next (s.answer (s.pr k.toNat))

/-- `RD.MEM` (R141). -/
def execRdMem (a : BitVec 11) (s : State) : Host.Outcome State Fault Refusal :=
  .next (s.answer (s.lmWord (wordAddress a)))

end Sys2Proof.Machine
end

