-- ==== Sys2Proof/Machine/Dma.lean ====
section
/-! DEFINITION. The DMA engine (42_dma.md): `DMA.TO_LOCAL` and `DMA.TO_MAIN`. -/

namespace Sys2Proof.Machine

/-- One row: `n` bytes, both addresses going up by 1 per byte (R215, R216), each byte read by `rd`
and stored by `put`. -/
def copyRow (rd : Nat → Byte) (put : Memory → Nat → Byte → Memory) :
    Nat → Nat → Nat → Memory → Memory
  | 0, _, _, mem => mem
  | n + 1, src, dst, mem => copyRow rd put n (src + 1) (dst + 1) (put mem dst (rd src))

/-- `count` rows of `len` bytes, the source stepping `srcSkip` and the destination `dstSkip` extra
bytes after each row. -/
def copyRows (rd : Nat → Byte) (put : Memory → Nat → Byte → Memory) (len srcSkip dstSkip : Nat) :
    Nat → Nat → Nat → Memory → Memory
  | 0, _, _, mem => mem
  | n + 1, src, dst, mem =>
    copyRows rd put len srcSkip dstSkip n (src + len + srcSkip) (dst + len + dstSkip)
      (copyRow rd put len src dst mem)

/-- The engine's transfer from main memory into local memory, with the fields of its length word;
"only the main-memory address advances by `skip` extra bytes" (R215). -/
def State.transferToLocal (s : State) (skip : BitVec 12) (countM1 : BitVec 8)
    (rawlen : BitVec 12) : State :=
  { s with
    lm := copyRows s.mainRead lmPut (lengthToLocal rawlen) (skipBytes skip) 0 (rowCount countM1)
      (mainStart s.dramAddr) (localStart s.memAddr) s.lm }

/-- The engine's transfer from local memory into main memory (R216). -/
def State.transferToMain (s : State) (skip : BitVec 12) (countM1 : BitVec 8)
    (rawlen : BitVec 12) : State :=
  { s with
    main := copyRows s.lmRead (mainPut s.config) (lengthToMain rawlen) 0 (skipBytes skip)
      (rowCount countM1) (localStart s.memAddr) (mainStart s.dramAddr) s.main }

/-- `DMA.TO_LOCAL` (R215). Its length word is an operand: `WR.RD_LEN`, the only operation that
starts it (R210), hands it `CR[RD_LEN]`. -/
def execDmaToLocal (skip : BitVec 12) (countM1 : BitVec 8) (rawlen : BitVec 12) (s : State) :
    Host.Outcome State Fault Refusal :=
  .next (s.transferToLocal skip countM1 rawlen)

/-- `DMA.TO_MAIN` (R216). Its length word is an operand: `WR.WR_LEN`, the only operation that
starts it (R210), hands it `CR[WR_LEN]`. -/
def execDmaToMain (skip : BitVec 12) (countM1 : BitVec 8) (rawlen : BitVec 12) (s : State) :
    Host.Outcome State Fault Refusal :=
  .next (s.transferToMain skip countM1 rawlen)

end Sys2Proof.Machine
end

