-- ==== Sys2Proof/Machine/Task.lean ====
section
/-! DEFINITION. The Task Dispatcher (43_dispatch.md): the executor call with the program counter
masked, the post-run step, the three dispatch paths, and `Dispatch()` itself. -/

namespace Sys2Proof.Machine

/-- `RunMasked(exec)` (R245): the executor sees the `PC_MASK` bits of the program counter only, and
the bits outside come back as they were, whatever it stored there. -/
def State.runMasked (s : State) (k : ExecKind) : State :=
  let saved := s.pc &&& ~~~s.config.pcMask
  let ran := { s with pc := s.pc &&& s.config.pcMask }.execCall k
  { ran with pc := (ran.pc &&& s.config.pcMask) ||| saved }

/-- `POSTRUN` (R247). -/
def State.postRun (s : State) : State :=
  let unlocked := { s with taskLocked := false }
  if s.isRunning then
    { unlocked with taskLocked := true }.scheduleEvent .spInt s.config.spCompletionDelay
  else unlocked

/-- The graphics path after the freeze check (R242). -/
def State.runGraphics (s : State) : State :=
  ((((s.unprotectFramebuffers).runMasked .primary).newFrame).displayEvent).protectFramebuffers.postRun

/-- The graphics path (R242): deferred while the raster stage is frozen (R250), a question that
`skipFreezeCheck` leaves unasked. -/
def State.dispatchGraphics (s : State) : State :=
  if s.config.skipFreezeCheck then s.runGraphics
  else if s.frozen then s.record (.isFrozen true)
  else (s.record (.isFrozen false)).runGraphics

/-- The audio path (R243). -/
def State.dispatchAudio (s : State) : State :=
  (s.runMasked (if s.config.audioHleMode then .audio else .primary)).postRun

/-- The default path (R244). -/
def State.dispatchOther (s : State) : State := (s.runMasked .primary).postRun

/-- The task type tag, `LMW(0xFC0)` (R241). -/
def State.taskTag (s : State) : Word := s.lmWord tagOffset

/-- `Dispatch()` (R241): the tag picks the path, all 32 bits compared. -/
def State.dispatch (s : State) : State :=
  if s.taskTag = 1 then s.dispatchGraphics
  else if s.taskTag = 2 then s.dispatchAudio
  else s.dispatchOther

/-- `DISPATCH.GFX` (R242). -/
def execDispatchGfx (s : State) : Host.Outcome State Fault Refusal := .next s.dispatchGraphics

/-- `DISPATCH.AUDIO` (R243). -/
def execDispatchAudio (s : State) : Host.Outcome State Fault Refusal := .next s.dispatchAudio

/-- `DISPATCH.OTHER` (R244): what the tag is makes no difference. -/
def execDispatchOther (_tag : Word) (s : State) : Host.Outcome State Fault Refusal :=
  .next s.dispatchOther

/-- `POSTRUN` (R247). -/
def execPostrun (s : State) : Host.Outcome State Fault Refusal := .next s.postRun

end Sys2Proof.Machine
end

