-- ==== Sys2Proof/Machine/StatusCmd.lean ====
section
/-! DEFINITION. The Status Bitfield Controller (41_status_commands.md): the write to STATUS as a
whole, its dispatch gating, and each command as the STATUS write that carries it alone. -/

namespace Sys2Proof.Machine

/-- The dispatch gating that ends every STATUS write (R189 to R191). `cleared` says that the word
carried CLR_HALT or CLR_BROKE. -/
def State.gate (s : State) (cleared : Bool) : State :=
  if s.taskLocked && s.eventPending .spInt then s
  else if !cleared && !s.taskLocked then s
  else if s.isRunning then s.dispatch
  else s

/-- The audio shortcut of SET_SIG0 (R172). -/
def State.audioShortcut (s : State) : State :=
  if s.config.audioSignalEnabled then s.raiseInterrupt else s

/-- Part (3) of R160: the side effects of `w`, in the order of R285. -/
def State.statusSideEffects (s : State) (w : Word) : State :=
  let s1 := if Command.clrIntr.present s.config.cmdBits w then s.clearPendingInterrupt else s
  let s2 := if Command.setIntr.present s.config.cmdBits w then s1.intrSetCall else s1
  if (Command.setSig 0).present s.config.cmdBits w then s2.audioShortcut else s2

/-- Parts (1) to (3) of R160: all that a STATUS write does before the gating. -/
def State.statusEffects (s : State) (w : Word) : State :=
  { s with status := setPass s.config w (clearPass s.config w s.status) }.statusSideEffects w

/-- `applyStatusWrite(w)` (R160). -/
def State.applyStatusWrite (s : State) (w : Word) : State :=
  (s.statusEffects w).gate (clearsHaltOrBroke s.config.cmdBits w)

/-- `CLR_HALT` (R161): it also marks the write as one that cleared HALT. -/
def execClrHalt (s : State) : Host.Outcome State Fault Refusal :=
  .next ((s.clearFlag .halt).gate true)

/-- `SET_HALT` (R162). -/
def execSetHalt (s : State) : Host.Outcome State Fault Refusal :=
  .next ((s.setFlag .halt).gate false)

/-- `CLR_BROKE` (R163): it also marks the write as one that cleared BROKE. -/
def execClrBroke (s : State) : Host.Outcome State Fault Refusal :=
  .next ((s.clearFlag .broke).gate true)

/-- `CLR_INTR` (R165). -/
def execClrIntr (s : State) : Host.Outcome State Fault Refusal :=
  .next (s.clearPendingInterrupt.gate false)

/-- `SET_INTR` (R166). -/
def execSetIntr (s : State) : Host.Outcome State Fault Refusal :=
  .next (s.intrSetCall.gate false)

/-- `CLR_SSTEP` (R167). -/
def execClrSstep (s : State) : Host.Outcome State Fault Refusal :=
  .next ((s.clearFlag .sstep).gate false)

/-- `SET_SSTEP` (R168). -/
def execSetSstep (s : State) : Host.Outcome State Fault Refusal :=
  .next ((s.setFlag .sstep).gate false)

/-- `CLR_INTR_BREAK` (R169). -/
def execClrIntrBreak (s : State) : Host.Outcome State Fault Refusal :=
  .next ((s.clearFlag .intrOnBreak).gate false)

/-- `SET_INTR_BREAK` (R170). -/
def execSetIntrBreak (s : State) : Host.Outcome State Fault Refusal :=
  .next ((s.setFlag .intrOnBreak).gate false)

/-- `CLR_SIG0` (R171). -/
def execClrSig0 (s : State) : Host.Outcome State Fault Refusal :=
  .next ((s.clearFlag (.sig 0)).gate false)

/-- `SET_SIG0` (R172): the flag, then the audio shortcut. -/
def execSetSig0 (s : State) : Host.Outcome State Fault Refusal :=
  .next ((s.setFlag (.sig 0)).audioShortcut.gate false)

/-- `CLR_SIG1` (R173). -/
def execClrSig1 (s : State) : Host.Outcome State Fault Refusal :=
  .next ((s.clearFlag (.sig 1)).gate false)

/-- `SET_SIG1` (R174). -/
def execSetSig1 (s : State) : Host.Outcome State Fault Refusal :=
  .next ((s.setFlag (.sig 1)).gate false)

/-- `CLR_SIG2` (R175). -/
def execClrSig2 (s : State) : Host.Outcome State Fault Refusal :=
  .next ((s.clearFlag (.sig 2)).gate false)

/-- `SET_SIG2` (R176). -/
def execSetSig2 (s : State) : Host.Outcome State Fault Refusal :=
  .next ((s.setFlag (.sig 2)).gate false)

/-- `CLR_SIG3` (R177). -/
def execClrSig3 (s : State) : Host.Outcome State Fault Refusal :=
  .next ((s.clearFlag (.sig 3)).gate false)

/-- `SET_SIG3` (R178). -/
def execSetSig3 (s : State) : Host.Outcome State Fault Refusal :=
  .next ((s.setFlag (.sig 3)).gate false)

/-- `CLR_SIG4` (R179). -/
def execClrSig4 (s : State) : Host.Outcome State Fault Refusal :=
  .next ((s.clearFlag (.sig 4)).gate false)

/-- `SET_SIG4` (R180). -/
def execSetSig4 (s : State) : Host.Outcome State Fault Refusal :=
  .next ((s.setFlag (.sig 4)).gate false)

/-- `CLR_SIG5` (R181). -/
def execClrSig5 (s : State) : Host.Outcome State Fault Refusal :=
  .next ((s.clearFlag (.sig 5)).gate false)

/-- `SET_SIG5` (R182). -/
def execSetSig5 (s : State) : Host.Outcome State Fault Refusal :=
  .next ((s.setFlag (.sig 5)).gate false)

/-- `CLR_SIG6` (R183). -/
def execClrSig6 (s : State) : Host.Outcome State Fault Refusal :=
  .next ((s.clearFlag (.sig 6)).gate false)

/-- `SET_SIG6` (R184). -/
def execSetSig6 (s : State) : Host.Outcome State Fault Refusal :=
  .next ((s.setFlag (.sig 6)).gate false)

/-- `CLR_SIG7` (R185). -/
def execClrSig7 (s : State) : Host.Outcome State Fault Refusal :=
  .next ((s.clearFlag (.sig 7)).gate false)

/-- `SET_SIG7` (R186). -/
def execSetSig7 (s : State) : Host.Outcome State Fault Refusal :=
  .next ((s.setFlag (.sig 7)).gate false)

end Sys2Proof.Machine
end

