-- ==== Sys2Proof/Machine/BusWrite.lean ====
section
/-! DEFINITION. The bus writes (40_register_access.md R129 to R136, R138, R140, R142), with the
post-write actions of R143. -/

namespace Sys2Proof.Machine

/-- `WR.MEM_ADDR` (R129). -/
def execWrMemAddr (v m : Word) (s : State) : Host.Outcome State Fault Refusal :=
  .next (s.maskCtrl .memAddr v m)

/-- `WR.DRAM_ADDR` (R130). -/
def execWrDramAddr (v m : Word) (s : State) : Host.Outcome State Fault Refusal :=
  .next (s.maskCtrl .dramAddr v m)

/-- The transfer a write to RD_LEN starts, with the new `CR[RD_LEN]` as its length word (R131). -/
def State.afterRdLen (s : State) : State :=
  s.transferToLocal (lenSkip s.rdLen) (lenCountM1 s.rdLen) (lenRaw s.rdLen)

/-- The transfer a write to WR_LEN starts, with the new `CR[WR_LEN]` as its length word (R132). -/
def State.afterWrLen (s : State) : State :=
  s.transferToMain (lenSkip s.wrLen) (lenCountM1 s.wrLen) (lenRaw s.wrLen)

/-- `WR.RD_LEN` (R131): the masked write, then the transfer, whatever the mask. -/
def execWrRdLen (v m : Word) (s : State) : Host.Outcome State Fault Refusal :=
  .next (s.maskCtrl .rdLen v m).afterRdLen

/-- `WR.WR_LEN` (R132): the masked write, then the transfer, whatever the mask. -/
def execWrWrLen (v m : Word) (s : State) : Host.Outcome State Fault Refusal :=
  .next (s.maskCtrl .wrLen v m).afterWrLen

/-- `WR.STATUS` (R133): the word is commands, not a value; a command in a bit that the mask does not
select is not seen. -/
def execWrStatus (v m : Word) (s : State) : Host.Outcome State Fault Refusal :=
  .next (s.applyStatusWrite (v &&& m))

/-- `WR.DMA_FULL` (R134): a no-op. -/
def execWrDmaFull (_v _m : Word) (s : State) : Host.Outcome State Fault Refusal := .next s

/-- `WR.DMA_BUSY` (R135): a no-op. -/
def execWrDmaBusy (_v _m : Word) (s : State) : Host.Outcome State Fault Refusal := .next s

/-- `WR.SEMAPHORE` (R136): the masked write, then 0 over it. -/
def execWrSemaphore (v m : Word) (s : State) : Host.Outcome State Fault Refusal :=
  .next ((s.maskCtrl .semaphore v m).setCtrl .semaphore 0)

/-- `WR.PC` (R138). -/
def execWrPc (v m : Word) (s : State) : Host.Outcome State Fault Refusal :=
  .next (s.setPr 0 (maskedWrite (s.pr 0) v m))

/-- `WR.PCREG` (R140). -/
def execWrPcreg (k : BitVec 30) (v m : Word) (s : State) : Host.Outcome State Fault Refusal :=
  .next (s.setPr k.toNat (maskedWrite (s.pr k.toNat) v m))

/-- `WR.MEM` (R142). -/
def execWrMem (a : BitVec 11) (v m : Word) (s : State) : Host.Outcome State Fault Refusal :=
  .next (s.lmWriteWord (wordAddress a) (maskedWrite (s.lmWord (wordAddress a)) v m))

end Sys2Proof.Machine
end

