-- ==== Sys2Proof/Machine/Port.lean ====
section
/-! DEFINITION. The port events (R90 (5)): delivery of the completion event, the re-dispatch
request, reset. -/

namespace Sys2Proof.Machine

/-- `DELIVERY_CLEARS_LOCK`, which the spec decides as false (R248, D18). -/
def State.deliveryLock (s : State) : State :=
  if s.config.deliveryClearsLock then { s with taskLocked := false } else s

/-- `DELIVER.SP_INT` (R248): the event stops being pending, and INTR_ON_BREAK as it is now decides
whether the interrupt is raised. The block cannot check that the event was pending (R292), so it
answers a delivery that no event stands behind in the same way (log entry 12). -/
def execDeliverSpInt (s : State) : Host.Outcome State Fault Refusal :=
  .next
    (if s.flag .intrOnBreak then (s.fireEvent .spInt).deliveryLock.raiseInterrupt
     else (s.fireEvent .spInt).deliveryLock)

/-- `REDISPATCH` (R249): with HALT and BROKE clear, `Dispatch()`, without the gates of a STATUS
write. -/
def execRedispatch (s : State) : Host.Outcome State Fault Refusal :=
  .next (if s.isRunning then s.dispatch else s)

/-- `RESET` (R310). -/
def execReset (s : State) : Host.Outcome State Fault Refusal := .next s.resetBlock

end Sys2Proof.Machine
end

