-- ==== Sys2Proof/Machine/Dispatch.lean ====
section
/-! DEFINITION. One arm for each operation of the table, each one direct call of its meaning. -/

namespace Sys2Proof.Machine

def exec (i : Instr) (s : State) : Host.Outcome State Fault Refusal :=
  match i with
  | .rdMemAddr => Sys2Proof.Machine.execRdMemAddr s
  | .rdDramAddr => Sys2Proof.Machine.execRdDramAddr s
  | .rdRdLen => Sys2Proof.Machine.execRdRdLen s
  | .rdWrLen => Sys2Proof.Machine.execRdWrLen s
  | .rdStatus => Sys2Proof.Machine.execRdStatus s
  | .rdDmaFull => Sys2Proof.Machine.execRdDmaFull s
  | .rdDmaBusy => Sys2Proof.Machine.execRdDmaBusy s
  | .rdSemaphore => Sys2Proof.Machine.execRdSemaphore s
  | .wrMemAddr v m => Sys2Proof.Machine.execWrMemAddr v m s
  | .wrDramAddr v m => Sys2Proof.Machine.execWrDramAddr v m s
  | .wrRdLen v m => Sys2Proof.Machine.execWrRdLen v m s
  | .wrWrLen v m => Sys2Proof.Machine.execWrWrLen v m s
  | .wrStatus v m => Sys2Proof.Machine.execWrStatus v m s
  | .wrDmaFull v m => Sys2Proof.Machine.execWrDmaFull v m s
  | .wrDmaBusy v m => Sys2Proof.Machine.execWrDmaBusy v m s
  | .wrSemaphore v m => Sys2Proof.Machine.execWrSemaphore v m s
  | .rdPc => Sys2Proof.Machine.execRdPc s
  | .wrPc v m => Sys2Proof.Machine.execWrPc v m s
  | .rdPcreg k => Sys2Proof.Machine.execRdPcreg k s
  | .wrPcreg k v m => Sys2Proof.Machine.execWrPcreg k v m s
  | .rdMem a => Sys2Proof.Machine.execRdMem a s
  | .wrMem a v m => Sys2Proof.Machine.execWrMem a v m s
  | .clrHalt => Sys2Proof.Machine.execClrHalt s
  | .setHalt => Sys2Proof.Machine.execSetHalt s
  | .clrBroke => Sys2Proof.Machine.execClrBroke s
  | .clrIntr => Sys2Proof.Machine.execClrIntr s
  | .setIntr => Sys2Proof.Machine.execSetIntr s
  | .clrSstep => Sys2Proof.Machine.execClrSstep s
  | .setSstep => Sys2Proof.Machine.execSetSstep s
  | .clrIntrBreak => Sys2Proof.Machine.execClrIntrBreak s
  | .setIntrBreak => Sys2Proof.Machine.execSetIntrBreak s
  | .clrSig0 => Sys2Proof.Machine.execClrSig0 s
  | .setSig0 => Sys2Proof.Machine.execSetSig0 s
  | .clrSig1 => Sys2Proof.Machine.execClrSig1 s
  | .setSig1 => Sys2Proof.Machine.execSetSig1 s
  | .clrSig2 => Sys2Proof.Machine.execClrSig2 s
  | .setSig2 => Sys2Proof.Machine.execSetSig2 s
  | .clrSig3 => Sys2Proof.Machine.execClrSig3 s
  | .setSig3 => Sys2Proof.Machine.execSetSig3 s
  | .clrSig4 => Sys2Proof.Machine.execClrSig4 s
  | .setSig4 => Sys2Proof.Machine.execSetSig4 s
  | .clrSig5 => Sys2Proof.Machine.execClrSig5 s
  | .setSig5 => Sys2Proof.Machine.execSetSig5 s
  | .clrSig6 => Sys2Proof.Machine.execClrSig6 s
  | .setSig6 => Sys2Proof.Machine.execSetSig6 s
  | .clrSig7 => Sys2Proof.Machine.execClrSig7 s
  | .setSig7 => Sys2Proof.Machine.execSetSig7 s
  | .dmaToLocal sk c l => Sys2Proof.Machine.execDmaToLocal sk c l s
  | .dmaToMain sk c l => Sys2Proof.Machine.execDmaToMain sk c l s
  | .dispatchGfx => Sys2Proof.Machine.execDispatchGfx s
  | .dispatchAudio => Sys2Proof.Machine.execDispatchAudio s
  | .dispatchOther tag => Sys2Proof.Machine.execDispatchOther tag s
  | .postrun => Sys2Proof.Machine.execPostrun s
  | .deliverSpInt => Sys2Proof.Machine.execDeliverSpInt s
  | .redispatch => Sys2Proof.Machine.execRedispatch s
  | .reset => Sys2Proof.Machine.execReset s

end Sys2Proof.Machine
end

