-- ==== Sys2Proof/Machine/Step.lean ====
section
/-! DEFINITION. One step of the machine (00_scope.md R9): the next request of the outside world, an
operation of the block with everything it triggers, or a change of the environment. -/

namespace Sys2Proof.Machine

/-- One step. The block is a bus slave with no instruction stream (R90): what it does next is what
its agents ask next (R291, log entry 3). With no request it does nothing. -/
def step (s : State) : Host.Outcome State Fault Refusal :=
  match s.requests with
  | [] => .next s
  | .env e :: rest => .next ({ s with requests := rest }.applyEnv e)
  | .port p :: rest =>
    match decode s.config p with
    | .ok i => exec i { s with requests := rest }
    | .error r => .refused (.notAnOperation r)

/-- `s` with the operation of bits `w` (numbered as the operation table numbers them, the bits above
`nbits` 0) as the next request, before those that wait already. -/
def State.withFetchWord (s : State) (nbits w : Nat) : State :=
  { s with requests := .port (PortWord.ofNat (w % 2 ^ nbits)) :: s.requests }

end Sys2Proof.Machine
end

