-- ==== Sys2Proof/Safety.lean ====
section
/-! DEFINITION. What counts as a safe run, in the terms the statements use: the invariant of the
state's representation, outcomes that go on, the requests that the block's agents can make
(60_exceptions.md R291), and what the spec's premises on the environment say (R292). -/

namespace Sys2Proof

/-- The formats in which the block's agents can start a step (R291): bus transactions and port
events. The others name operations that run inside such a step. -/
def Format.fromAgent : Format → Bool
  | .ctrlRead | .ctrlWrite | .pcRead | .pcWrite | .memRead | .memWrite
  | .deliverSpInt | .redispatch | .reset => true
  | .statusCmd | .lenToLocal | .lenToMain | .tag | .postrun => false

/-- What `i` does can change `taskLocked` or call an executor: the STATUS write and its commands,
the dispatch paths, the post-run step and the re-dispatch request. -/
def Instr.mayDispatch : Instr → Bool
  | .wrStatus _ _ | .clrHalt | .setHalt | .clrBroke | .clrIntr | .setIntr
  | .clrSstep | .setSstep | .clrIntrBreak | .setIntrBreak | .clrSig0 | .setSig0 | .clrSig1
  | .setSig1 | .clrSig2 | .setSig2 | .clrSig3 | .setSig3 | .clrSig4 | .setSig4 | .clrSig5
  | .setSig5 | .clrSig6 | .setSig6 | .clrSig7 | .setSig7 | .dispatchGfx | .dispatchAudio
  | .dispatchOther _ | .postrun | .redispatch => true
  | .rdMemAddr | .rdDramAddr | .rdRdLen | .rdWrLen | .rdStatus | .rdDmaFull | .rdDmaBusy
  | .rdSemaphore | .wrMemAddr _ _ | .wrDramAddr _ _ | .wrRdLen _ _ | .wrWrLen _ _
  | .wrDmaFull _ _ | .wrDmaBusy _ _ | .wrSemaphore _ _ | .rdPc | .wrPc _ _ | .rdPcreg _
  | .wrPcreg _ _ _ | .rdMem _ | .wrMem _ _ _ | .dmaToLocal _ _ _ | .dmaToMain _ _ _
  | .deliverSpInt | .reset => false

/-! ## Which bus tuples an operation stands for -/

/-- Every tuple of bank `CTRL`, direction R, with `(addr >> 2) & 7` = `k` is the operation `i`. -/
def ReadOfCtrl (k : Nat) (i : Instr) : Prop :=
  ∀ (c : Config) (addr v m : Word), ((addr >>> 2) &&& 7#32).toNat = k →
    decode c ⟨Format.ctrlRead.sel, addr, v, m⟩ = .ok i

/-- Every tuple of bank `CTRL`, direction W, with `(addr >> 2) & 7` = `k` is the operation `i` with
its data and mask. -/
def WriteOfCtrl (k : Nat) (i : Word → Word → Instr) : Prop :=
  ∀ (c : Config) (addr v m : Word), ((addr >>> 2) &&& 7#32).toNat = k →
    decode c ⟨Format.ctrlWrite.sel, addr, v, m⟩ = .ok (i v m)

/-- Every tuple of bank `PC`, direction R, with `(addr >> 2) mod PCREGS_COUNT` = `k` is `i`. -/
def ReadOfPc (c : Config) (k : Nat) (i : Instr) : Prop :=
  ∀ addr v m : Word, addr.toNat / 4 % 2 ^ c.pcregsBits = k →
    decode c ⟨Format.pcRead.sel, addr, v, m⟩ = .ok i

/-- Every tuple of bank `PC`, direction W, with `(addr >> 2) mod PCREGS_COUNT` = `k` is `i` with its
data and mask. -/
def WriteOfPc (c : Config) (k : Nat) (i : Word → Word → Instr) : Prop :=
  ∀ addr v m : Word, addr.toNat / 4 % 2 ^ c.pcregsBits = k →
    decode c ⟨Format.pcWrite.sel, addr, v, m⟩ = .ok (i v m)

/-- Every tuple of bank `MEM`, direction R, with `addr & 0x1FFC` = `a` is `i`. -/
def ReadOfMem (a : Nat) (i : Instr) : Prop :=
  ∀ (c : Config) (addr v m : Word), (addr &&& 0x1FFC#32).toNat = a →
    decode c ⟨Format.memRead.sel, addr, v, m⟩ = .ok i

/-- Every tuple of bank `MEM`, direction W, with `addr & 0x1FFC` = `a` is `i` with its data and
mask. -/
def WriteOfMem (a : Nat) (i : Word → Word → Instr) : Prop :=
  ∀ (c : Config) (addr v m : Word), (addr &&& 0x1FFC#32).toNat = a →
    decode c ⟨Format.memWrite.sel, addr, v, m⟩ = .ok (i v m)

end Sys2Proof

namespace Sys2Proof.Machine

/-- Both memories and the secondary bank keep their canonical form and stay inside their address
spaces: `LM` in 0..8191 (R33), `DRAM` in 0..`MAIN_MEM_SIZE`-1 (R66), `PR[1..PCREGS_COUNT-1]`
(R31). -/
abbrev State.Inv (s : State) : Prop :=
  s.lm.wf ∧ Cells.below localMemSize s.lm ∧ s.main.wf ∧ Cells.below s.config.mainMemSize s.main ∧
    Cells.wf 0#32 s.pcRegs ∧ ∀ c ∈ s.pcRegs, 1 ≤ c.1 ∧ c.1 < s.config.pcregsCount

/-- The outcome goes on. -/
def Goes (o : Host.Outcome State Fault Refusal) : Prop := ∃ t, o = .next t

/-- `r` is `old` with the bits that `m` selects replaced by those of `v`: R120's masked write, said
bit by bit. -/
def Merged (old v m r : Word) : Prop :=
  ∀ i, i < 32 → r.getLsbD i = if m.getLsbD i then v.getLsbD i else old.getLsbD i

/-- `r` is `old` with the one bit `k` at `b`. -/
def OnlyBit (k : Nat) (b : Bool) (old r : Word) : Prop :=
  ∀ i, i < 32 → r.getLsbD i = if i = k then b else old.getLsbD i

/-- The word of the four local-memory bytes from `a` up, the first in bits 31:24. -/
def State.bigWord (s : State) (a : Nat) : Word :=
  s.lmRead a ++ s.lmRead (a + 1) ++ s.lmRead (a + 2) ++ s.lmRead (a + 3)

/-- The word of the four local-memory bytes from `a` up, the first in bits 7:0. -/
def State.littleWord (s : State) (a : Nat) : Word :=
  s.lmRead (a + 3) ++ s.lmRead (a + 2) ++ s.lmRead (a + 1) ++ s.lmRead a

/-- How many calls of `cs` satisfy `p`. -/
def callCount (p : Call → Bool) (cs : List Call) : Nat := (cs.filter p).length

/-- The call runs an executor. -/
def Call.isRun : Call → Bool
  | .runUntilYield _ _ | .runUntilYieldAudio _ _ => true
  | .raiseInterrupt _ | .clearPendingInterrupt _ | .schedulePendingInterrupt _
  | .scheduleEvent _ _ | .isFrozen _ | .unprotectFramebuffers | .protectFramebuffers
  | .consumeInterruptFlag _ | .newFrame => false

/-- The call schedules an event of kind `k`. -/
def Call.schedules (k : EventKind) : Call → Bool
  | .scheduleEvent k' _ => k' == k
  | .raiseInterrupt _ | .clearPendingInterrupt _ | .schedulePendingInterrupt _
  | .isFrozen _ | .unprotectFramebuffers | .protectFramebuffers
  | .consumeInterruptFlag _ | .newFrame | .runUntilYield _ _ | .runUntilYieldAudio _ _ => false

/-- From `s` to `t` no executor was called. -/
def NoRun (s t : State) : Prop :=
  t.execCount = s.execCount ∧ callCount Call.isRun t.calls = callCount Call.isRun s.calls

/-- A port word whose selector is one of the fourteen of the model's numbering. -/
abbrev Request.known : Request → Bool
  | .port p => (Format.ofSel p.sel).isSome
  | .env _ => true

/-- How many events of kind `k` are scheduled and have not fired. -/
def State.outstanding (s : State) (k : EventKind) : Nat :=
  (s.timeline.filter (fun e => e.kind == k)).length

/-- The premise of R247 and R249 under which at most one completion event is outstanding: one is,
at most, and only while the task is locked. -/
def State.SingleCompletion (s : State) : Prop :=
  s.outstanding .spInt ≤ 1 ∧ (s.outstanding .spInt = 1 → s.taskLocked = true)

/-- From `t` to `t'` the first scheduled event of kind `k` is taken off the timeline, if there is
one, and nothing else happens. Which of several goes first is the model's choice (log entry 12). -/
def Withdrawn (k : EventKind) (t t' : State) : Prop :=
  (∀ (before : List Event) (e : Event) (after : List Event), e.kind = k →
    (∀ e' ∈ before, e'.kind ≠ k) → t.timeline = before ++ e :: after →
    t' = { t with timeline := before ++ after }) ∧
  ((∀ e ∈ t.timeline, e.kind ≠ k) → t' = t)

/-- From `t` to `t'` the collaborator's change `e` of its own state is made, and nothing else
(R34 (a) to (d)). -/
def EnvDone (e : EnvEdit) (t t' : State) : Prop :=
  match e with
  | .frozen b => t' = { t with frozen := b }
  | .fbProtected b => t' = { t with fbProtected := b }
  | .rasterIntr b => t' = { t with rasterIntr := b }
  | .spPending b => t' = { t with spPending := b }
  | .fireDpInt => Withdrawn .dpInt t t'
  | .main a b => t' = { t with main := t'.main } ∧ t'.mainRead a = b ∧
      ∀ a', a' % 2 ^ t.config.mainMemBits ≠ a % 2 ^ t.config.mainMemBits →
        t'.mainRead a' = t.mainRead a'

/-- From `t` to `t'` the executor's change `e` is made, and nothing else (R246). -/
def EditDone (e : ExecEdit) (t t' : State) : Prop :=
  match e with
  | .env e => EnvDone e t t'
  | .schedule e => t' = { t with timeline := t.timeline ++ [e] }
  | .unschedule k => Withdrawn k t t'
  | .ctrl r v => t'.ctrl r = v ∧ (∀ r', r' ≠ r → t'.ctrl r' = t.ctrl r') ∧
      t' = { t with
        memAddr := t'.memAddr, dramAddr := t'.dramAddr, rdLen := t'.rdLen, wrLen := t'.wrLen,
        status := t'.status, dmaFull := t'.dmaFull, dmaBusy := t'.dmaBusy,
        semaphore := t'.semaphore }
  | .pr k v => t'.pr k = v ∧
      (∀ j, j % t.config.pcregsCount ≠ k % t.config.pcregsCount → t'.pr j = t.pr j) ∧
      t' = { t with pc := t'.pc, pcRegs := t'.pcRegs }
  | .lm a b => t'.lmRead a = b ∧ (∀ a', a' % 8192 ≠ a % 8192 → t'.lmRead a' = t.lmRead a') ∧
      t' = { t with lm := t'.lm }

/-- The executor's answer schedules no completion event of its own: it leaves to the block what R247
gives the block. -/
def LeavesCompletion (es : List ExecEdit) : Prop := ∀ e ∈ es, ∀ d, e ≠ .schedule ⟨.spInt, d⟩

/-- The answer of the next executor call leaves the completion events to the block: the script's
answer, or, where the script is used up, the free value at whatever that call sees. -/
def State.NextAnswerLeavesCompletion (s : State) : Prop :=
  match s.execScript with
  | es :: _ => LeavesCompletion es
  | [] => ∀ v : ExecView, v.number = s.execCount → v.config = s.config →
      LeavesCompletion (Config.executor v)

end Sys2Proof.Machine
end

