-- ==== Sys2Proof/WellFormed.lean ====
section
/-! DEFINITION. Which operations are well formed: those whose operands the encodings of
30_encoding.md give to their row and not to another one (R92, R98). -/

namespace Sys2Proof

/-- `RD.PCREG` and `WR.PCREG` name a word of the secondary bank other than word 0 (R139: "`k` not
0"; R92). -/
def pcregIndexOk (c : Config) (k : BitVec 30) : Bool :=
  k != 0 && decide (k.toNat < c.pcregsCount)

/-- Every tag but 1 and 2 selects the default path (R98). -/
def otherTagOk (tag : Word) : Bool := tag != 1 && tag != 2

/-- The operands of `i` belong to its row, on a block with the parameters `c`. -/
def Instr.wf (c : Config) : Instr → Bool
  | .rdPcreg k => pcregIndexOk c k
  | .wrPcreg k _ _ => pcregIndexOk c k
  | .dispatchOther tag => otherTagOk tag
  | .rdMemAddr | .rdDramAddr | .rdRdLen | .rdWrLen | .rdStatus | .rdDmaFull | .rdDmaBusy
  | .rdSemaphore | .wrMemAddr _ _ | .wrDramAddr _ _ | .wrRdLen _ _ | .wrWrLen _ _
  | .wrStatus _ _ | .wrDmaFull _ _ | .wrDmaBusy _ _ | .wrSemaphore _ _ | .rdPc | .wrPc _ _
  | .rdMem _ | .wrMem _ _ _ | .clrHalt | .setHalt | .clrBroke | .clrIntr | .setIntr
  | .clrSstep | .setSstep | .clrIntrBreak | .setIntrBreak | .clrSig0 | .setSig0 | .clrSig1
  | .setSig1 | .clrSig2 | .setSig2 | .clrSig3 | .setSig3 | .clrSig4 | .setSig4 | .clrSig5
  | .setSig5 | .clrSig6 | .setSig6 | .clrSig7 | .setSig7 | .dmaToLocal _ _ _
  | .dmaToMain _ _ _ | .dispatchGfx | .dispatchAudio | .postrun | .deliverSpInt
  | .redispatch | .reset => true

end Sys2Proof
end

