-- ==== Sys2Proof/Certificates/Slice0/Obligations.lean ====
section
/-! DEFINITION. What is claimed of the model, from the spec's numbered rules. Nothing is proved here. -/

open Sys2Proof Sys2Proof.Machine

/-! ## Encodings -/

/-- Decoding the encoding of a well-formed operation gives it back, with every operand, whatever the
parameters (the command table among them). -/
def Obligations.DecodeOfEncodeIsTheOperation : Prop :=
  ∀ (c : Config) (i : Instr), i.wf c = true → decode c (encode c i) = .ok i

/-- Words written out from 30_encoding.md R91 to R98 decode to the rows they stand for. -/
def Obligations.SpecWordsDecodeToTheirRows : Prop :=
  decode Config.default ⟨1, 0x1C, 0, 0⟩ = .ok .rdSemaphore ∧
  decode Config.default ⟨2, 0x08, 0x00801007, 0xFFFFFFFF⟩ =
    .ok (.wrRdLen 0x00801007 0xFFFFFFFF) ∧
  decode Config.default ⟨3, 0x08, 0, 0⟩ = .ok .rdPc ∧
  decode Config.default ⟨4, 0x04, 0xDEADBEEF, 0xFF0000FF⟩ =
    .ok (.wrPcreg 1 0xDEADBEEF 0xFF0000FF) ∧
  decode Config.default ⟨5, 0x2FC3, 0, 0⟩ = .ok (.rdMem 0x3F0) ∧
  decode Config.default ⟨0, 0x02000000, 0, 0⟩ = .ok .setSig7 ∧
  decode Config.default ⟨7, 0x00801007, 0, 0⟩ = .ok (.dmaToLocal 8 1 7) ∧
  decode Config.default ⟨9, 0x01000000, 0, 0⟩ = .ok (.dispatchOther 0x01000000)

/-- R144: every bus tuple is one operation of its bank and direction, well formed, and it
completes. -/
def Obligations.EveryBusTransactionIsOneRowAndCompletes : Prop :=
  ∀ (c : Config) (f : Format) (addr v m : Word),
    f ∈ [Format.ctrlRead, .ctrlWrite, .pcRead, .pcWrite, .memRead, .memWrite] →
    ∃ i, decode c ⟨f.sel, addr, v, m⟩ = .ok i ∧ i.wf c = true ∧ (encode c i).sel = f.sel ∧
      ∀ s, ∃ t, exec i s = .next t

/-- R91: the control-bank register is `(addr >> 2) & 7`, at the offsets 0x00 to 0x1C; no other
address bit matters. -/
def Obligations.ControlBankDecodesAddrFourToTwo : Prop :=
  ∀ (c : Config) (addr v m : Word),
    (∃ i, [Instr.rdMemAddr, .rdDramAddr, .rdRdLen, .rdWrLen, .rdStatus, .rdDmaFull, .rdDmaBusy,
        .rdSemaphore][((addr >>> 2) &&& 7#32).toNat]? = some i ∧
      decode c ⟨Format.ctrlRead.sel, addr, v, m⟩ = .ok i) ∧
    (∃ i, [Instr.wrMemAddr v m, .wrDramAddr v m, .wrRdLen v m, .wrWrLen v m, .wrStatus v m,
        .wrDmaFull v m, .wrDmaBusy v m, .wrSemaphore v m][((addr >>> 2) &&& 7#32).toNat]? = some i ∧
      decode c ⟨Format.ctrlWrite.sel, addr, v, m⟩ = .ok i)

/-- R92: the secondary-bank register is `(addr >> 2)` modulo `PCREGS_COUNT`, word 0 is PC, and with
`PCREGS_COUNT` = 1 every address selects PC. -/
def Obligations.SecondaryBankDecodesModuloItsSize : Prop :=
  ∀ (c : Config) (addr v m : Word),
    decode c ⟨Format.pcRead.sel, addr, v, m⟩ =
      (if addr.toNat / 4 % 2 ^ c.pcregsBits = 0 then .ok .rdPc
       else .ok (.rdPcreg (BitVec.ofNat 30 (addr.toNat / 4 % 2 ^ c.pcregsBits)))) ∧
    decode c ⟨Format.pcWrite.sel, addr, v, m⟩ =
      (if addr.toNat / 4 % 2 ^ c.pcregsBits = 0 then .ok (.wrPc v m)
       else .ok (.wrPcreg (BitVec.ofNat 30 (addr.toNat / 4 % 2 ^ c.pcregsBits)) v m)) ∧
    (c.pcregsCount = 1 →
      decode c ⟨Format.pcRead.sel, addr, v, m⟩ = .ok .rdPc ∧
      decode c ⟨Format.pcWrite.sel, addr, v, m⟩ = .ok (.wrPc v m))

/-- R93: the word address in local memory is `addr & 0x1FFC`. -/
def Obligations.LocalMemoryDecodesTheWordAddress : Prop :=
  ∀ (c : Config) (addr v m : Word),
    ∃ a : BitVec 11, 4 * a.toNat = (addr &&& 0x1FFC#32).toNat ∧
      decode c ⟨Format.memRead.sel, addr, v, m⟩ = .ok (.rdMem a) ∧
      decode c ⟨Format.memWrite.sel, addr, v, m⟩ = .ok (.wrMem a v m)

/-- R95, R160: a word delivered to STATUS that carries one command alone is that command's row, and
the STATUS write that delivers it does what the row does, whatever mask delivers it and whatever
bits without a command stand beside it (D6: the word is `wdata & wmask`, log entry 14). A command
row as a step of its own is the model's (log entry 17). -/
def Obligations.OneCommandIsTheStatusWriteThatCarriesIt : Prop :=
  ∀ (cmd : Command) (v m : Word) (s : State),
    (∀ d : Command, (v &&& m).getLsbD (d.bit s.config.cmdBits) = decide (d = cmd)) →
    decode s.config ⟨Format.statusCmd.sel, v &&& m, 0, 0⟩ = .ok cmd.instr ∧
    exec cmd.instr s = exec (.wrStatus v m) s

/-! ## The step -/

/-- A step runs the operation that the next request carries; a change of the environment is applied;
with no request nothing happens. The queue of requests is the model's (log entry 3). -/
def Obligations.StepRunsTheDecodedOperation : Prop :=
  (∀ (s : State) (p : PortWord) (rest : List Request) (i : Instr),
    s.requests = .port p :: rest → decode s.config p = .ok i →
      step s = exec i { s with requests := rest }) ∧
  (∀ (s : State) (e : EnvEdit) (rest : List Request),
    s.requests = .env e :: rest → step s = .next ({ s with requests := rest }.applyEnv e)) ∧
  (∀ s : State, s.requests = [] → step s = .next s)

/-- R10: no operation can fail, and a step stops only on a selector byte that the model's own
numbering (log entry 2) does not use. -/
def Obligations.NoOperationFailsFaultsOrIsRefused : Prop :=
  (∀ (i : Instr) (s : State), ∃ t, exec i s = .next t) ∧
  (∀ s : State, (∃ t, step s = .next t) ∨
    ∃ p rest, s.requests = .port p :: rest ∧ 14 ≤ p.sel.toNat ∧
      step s = .refused (.notAnOperation (.unknownFormat p.sel)))

/-- Every step keeps both memories and the secondary bank in canonical form and inside their
address spaces. -/
def Obligations.StepKeepsTheRepresentation : Prop :=
  ∀ s t : State, s.Inv → step s = .next t → t.Inv

/-- The reset state meets the invariant of the representation. -/
def Obligations.ResetMeetsTheRepresentation : Prop := State.reset.Inv

/-- R37: the block's own state after power-on and after any later reset, which keeps the
configuration. STATUS is the HALT flag alone, which is 0x00000001 under D4. -/
def Obligations.PowerOnAndResetLeaveHaltAloneAndZeros : Prop :=
  (∀ t : State, t = State.reset ∨ (∃ s, exec .reset s = .next t) →
    (∀ a, t.lmRead a = 0) ∧
    t.memAddr = 0 ∧ t.dramAddr = 0 ∧ t.rdLen = 0 ∧ t.wrLen = 0 ∧ t.dmaFull = 0 ∧ t.dmaBusy = 0 ∧
    t.semaphore = 0 ∧ OnlyBit t.config.flagBits.halt true 0 t.status ∧
    (t.config.flagBits = .spec → t.status = 0x00000001) ∧
    (∀ k, t.pr k = 0) ∧ t.taskLocked = false) ∧
  ∀ s : State, ∃ t, exec .reset s = .next t ∧ t.config = s.config

/-! ## Control-bank reads and writes -/

/-- R121 to R127: a read at its offset of the control bank answers the stored word and changes
nothing else. -/
def Obligations.ControlReadsAnswerTheStoredWord : Prop :=
  (ReadOfCtrl 0 .rdMemAddr ∧ ReadOfCtrl 1 .rdDramAddr ∧ ReadOfCtrl 2 .rdRdLen ∧
    ReadOfCtrl 3 .rdWrLen ∧ ReadOfCtrl 4 .rdStatus ∧ ReadOfCtrl 5 .rdDmaFull ∧
    ReadOfCtrl 6 .rdDmaBusy) ∧
  ∀ s : State,
    exec .rdMemAddr s = .next { s with rdata := s.memAddr } ∧
    exec .rdDramAddr s = .next { s with rdata := s.dramAddr } ∧
    exec .rdRdLen s = .next { s with rdata := s.rdLen } ∧
    exec .rdWrLen s = .next { s with rdata := s.wrLen } ∧
    exec .rdStatus s = .next { s with rdata := s.status } ∧
    exec .rdDmaFull s = .next { s with rdata := s.dmaFull } ∧
    exec .rdDmaBusy s = .next { s with rdata := s.dmaBusy }

/-- R128: a read of SEMAPHORE answers the value and leaves 1. -/
def Obligations.SemaphoreReadAnswersAndLeavesOne : Prop :=
  ReadOfCtrl 7 .rdSemaphore ∧
  ∀ s : State, exec .rdSemaphore s = .next { s with rdata := s.semaphore, semaphore := 1 }

/-- R136: a write to SEMAPHORE leaves 0, whatever the data and the mask. -/
def Obligations.SemaphoreWriteLeavesZero : Prop :=
  WriteOfCtrl 7 .wrSemaphore ∧
  ∀ (s : State) (v m : Word), exec (.wrSemaphore v m) s = .next { s with semaphore := 0 }

/-- R74: an agent that reads after a release acquires, and every later read until the next release
answers 1. -/
def Obligations.SemaphoreIsATestAndSet : Prop :=
  ∀ (s : State) (v m : Word),
    ∃ t1 t2 t3, exec (.wrSemaphore v m) s = .next t1 ∧
      exec .rdSemaphore t1 = .next t2 ∧ t2.rdata = 0 ∧
      exec .rdSemaphore t2 = .next t3 ∧ t3.rdata = 1 ∧
      ∀ t4, exec .rdSemaphore t3 = .next t4 → t4.rdata = 1 ∧ t4.semaphore = 1

/-- R129, R130: a write to MEM_ADDR or DRAM_ADDR replaces the masked bits, all 32 stored, and does
nothing else. -/
def Obligations.AddressRegisterWritesMergeUnderTheMask : Prop :=
  (WriteOfCtrl 0 .wrMemAddr ∧ WriteOfCtrl 1 .wrDramAddr) ∧
  ∀ (s : State) (v m : Word),
    (∃ r, Merged s.memAddr v m r ∧ exec (.wrMemAddr v m) s = .next { s with memAddr := r }) ∧
    (∃ r, Merged s.dramAddr v m r ∧ exec (.wrDramAddr v m) s = .next { s with dramAddr := r })

/-- R131: a write to RD_LEN merges, then runs `DMA.TO_LOCAL` with the new register as its length
word; the register keeps the merged value. That a write with mask 0 transfers as well is decision
D30 (log entry 21). -/
def Obligations.RdLenWriteMergesThenTransfersIn : Prop :=
  WriteOfCtrl 2 .wrRdLen ∧
  ∀ (s : State) (v m : Word),
    ∃ r t, Merged s.rdLen v m r ∧ exec (.wrRdLen v m) s = .next t ∧
      exec (.dmaToLocal (r.extractLsb' 20 12) (r.extractLsb' 12 8) (r.extractLsb' 0 12))
        { s with rdLen := r } = .next t ∧
      t.rdLen = r

/-- R132: a write to WR_LEN merges, then runs `DMA.TO_MAIN` with the new register as its length
word; the register keeps the merged value. That a write with mask 0 transfers as well is decision
D30 (log entry 21). -/
def Obligations.WrLenWriteMergesThenTransfersOut : Prop :=
  WriteOfCtrl 3 .wrWrLen ∧
  ∀ (s : State) (v m : Word),
    ∃ r t, Merged s.wrLen v m r ∧ exec (.wrWrLen v m) s = .next t ∧
      exec (.dmaToMain (r.extractLsb' 20 12) (r.extractLsb' 12 8) (r.extractLsb' 0 12))
        { s with wrLen := r } = .next t ∧
      t.wrLen = r

/-- R134, R135: a write to DMA_FULL or DMA_BUSY changes nothing at all. -/
def Obligations.ReadOnlyRegistersDropWrites : Prop :=
  (WriteOfCtrl 5 .wrDmaFull ∧ WriteOfCtrl 6 .wrDmaBusy) ∧
  ∀ (s : State) (v m : Word),
    exec (.wrDmaFull v m) s = .next s ∧ exec (.wrDmaBusy v m) s = .next s

/-- R72: a bus read answers what the latest write left: the masked merge, for every register that
stores what is written, the words of the secondary bank after the first where the bank has any. -/
def Obligations.ReadAfterWriteAnswersTheMergedWord : Prop :=
  ∀ (s : State) (v m : Word) (a : BitVec 11), s.Inv →
    (∀ wr rd old, (wr, rd, old) ∈
      [(Instr.wrMemAddr v m, Instr.rdMemAddr, s.memAddr),
       (.wrDramAddr v m, .rdDramAddr, s.dramAddr),
       (.wrRdLen v m, .rdRdLen, s.rdLen),
       (.wrWrLen v m, .rdWrLen, s.wrLen),
       (.wrPc v m, .rdPc, s.pc),
       (.wrMem a v m, .rdMem a, s.lmWord (4 * a.toNat))] →
      ∃ t u, exec wr s = .next t ∧ exec rd t = .next u ∧ Merged old v m u.rdata) ∧
    (∀ k : BitVec 30, (Instr.wrPcreg k v m).wf s.config = true →
      ∃ t u, exec (.wrPcreg k v m) s = .next t ∧ exec (.rdPcreg k) t = .next u ∧
        Merged (s.pr k.toNat) v m u.rdata)

/-! ## The secondary bank and local memory -/

/-- R137, R138: the program counter is read and written whole, with no side effect. -/
def Obligations.PcReadsAndWritesAllBits : Prop :=
  ∀ (s : State) (v m : Word),
    ReadOfPc s.config 0 .rdPc ∧ WriteOfPc s.config 0 .wrPc ∧
    exec .rdPc s = .next { s with rdata := s.pc } ∧
    ∃ r, Merged s.pc v m r ∧ exec (.wrPc v m) s = .next { s with pc := r }

/-- R139, R140: the other words of the secondary bank are plain storage. -/
def Obligations.OtherSecondaryWordsArePlainStorage : Prop :=
  ∀ (s : State) (k : BitVec 30) (v m : Word), s.Inv → (Instr.wrPcreg k v m).wf s.config = true →
    ReadOfPc s.config k.toNat (.rdPcreg k) ∧ WriteOfPc s.config k.toNat (.wrPcreg k) ∧
    exec (.rdPcreg k) s = .next { s with rdata := s.pr k.toNat } ∧
    ∃ t, exec (.wrPcreg k v m) s = .next t ∧ Merged (s.pr k.toNat) v m (t.pr k.toNat) ∧
      (∀ j, j < s.config.pcregsCount → j ≠ k.toNat → t.pr j = s.pr j) ∧
      t = { s with pcRegs := t.pcRegs }

/-- R141: a read of local memory answers the four bytes of the word, the first in bits 31:24 (or in
bits 7:0 under the other value of `LM_BYTE_ORDER`), and changes nothing else. -/
def Obligations.LocalReadAnswersTheFourBytes : Prop :=
  ∀ (s : State) (a : BitVec 11),
    ReadOfMem (4 * a.toNat) (.rdMem a) ∧
    (s.config.lmByteOrder = .big →
      exec (.rdMem a) s = .next { s with rdata := s.bigWord (4 * a.toNat) }) ∧
    (s.config.lmByteOrder = .little →
      exec (.rdMem a) s = .next { s with rdata := s.littleWord (4 * a.toNat) })

/-- R142: a write to local memory merges into the word at its address and leaves every other byte
and all other state alone. -/
def Obligations.LocalWriteMergesIntoTheWord : Prop :=
  ∀ (s : State) (a : BitVec 11) (v m : Word), s.Inv →
    WriteOfMem (4 * a.toNat) (.wrMem a) ∧
    ∃ t, exec (.wrMem a v m) s = .next t ∧ t = { s with lm := t.lm } ∧
      (s.config.lmByteOrder = .big →
        Merged (s.bigWord (4 * a.toNat)) v m (t.bigWord (4 * a.toNat))) ∧
      (s.config.lmByteOrder = .little →
        Merged (s.littleWord (4 * a.toNat)) v m (t.littleWord (4 * a.toNat))) ∧
      ∀ b, b < 8192 → (b < 4 * a.toNat ∨ 4 * a.toNat + 4 ≤ b) → t.lmRead b = s.lmRead b

/-- R62: a word written on the bus reaches main memory most significant byte first, under the byte
order the spec decides. -/
def Obligations.BusWordReachesMainMostSignificantByteFirst : Prop :=
  ∀ (s : State) (a : BitVec 11) (w : Word), s.Inv → s.config.lmByteOrder = .big →
    2 ≤ s.config.mainMemBits → (s.memAddr &&& 0x1FFF#32).toNat = 4 * a.toNat →
    ∃ t u, exec (.wrMem a w 0xFFFFFFFF#32) s = .next t ∧ exec (.dmaToMain 0 0 3) t = .next u ∧
      u.mainRead (s.dramAddr &&& 0xFFFFFF#32).toNat = w.extractLsb' 24 8 ∧
      u.mainRead ((s.dramAddr &&& 0xFFFFFF#32).toNat + 1) = w.extractLsb' 16 8 ∧
      u.mainRead ((s.dramAddr &&& 0xFFFFFF#32).toNat + 2) = w.extractLsb' 8 8 ∧
      u.mainRead ((s.dramAddr &&& 0xFFFFFF#32).toNat + 3) = w.extractLsb' 0 8

/-- R64, R66: the accessor reads back what it wrote, leaves every other address alone, whatever
`BYTE_XOR` is, and stands for the physical byte at `a ^ BYTE_XOR`. -/
def Obligations.AccessorReadsBackWhateverTheXor : Prop :=
  ∀ (s : State) (a : Nat) (b : Byte), s.Inv →
    (s.mainWrite a b).mainRead a = b ∧
    (∀ a', a' % 2 ^ s.config.mainMemBits ≠ a % 2 ^ s.config.mainMemBits →
      (s.mainWrite a b).mainRead a' = s.mainRead a') ∧
    (2 ≤ s.config.mainMemBits → a < 2 ^ s.config.mainMemBits →
      s.mainRead a = s.main.read (a ^^^ s.config.byteXor.toNat))

/-! ## STATUS -/

/-- R161, R162, R163, R167 to R170: each command on HALT, BROKE, SSTEP and INTR_ON_BREAK changes its
one flag, where `STATUS_FLAG_BIT` places it, and nothing else before the gating; the clears of HALT
and BROKE mark the write for it. -/
def Obligations.ModeCommandsChangeTheirOneFlag : Prop :=
  ∀ (s : State) (b : FlagBits), b = s.config.flagBits →
    (∃ u, OnlyBit b.halt false s.status u ∧
      exec .clrHalt s = .next ({ s with status := u }.gate true)) ∧
    (∃ u, OnlyBit b.halt true s.status u ∧
      exec .setHalt s = .next ({ s with status := u }.gate false)) ∧
    (∃ u, OnlyBit b.broke false s.status u ∧
      exec .clrBroke s = .next ({ s with status := u }.gate true)) ∧
    (∃ u, OnlyBit b.sstep false s.status u ∧
      exec .clrSstep s = .next ({ s with status := u }.gate false)) ∧
    (∃ u, OnlyBit b.sstep true s.status u ∧
      exec .setSstep s = .next ({ s with status := u }.gate false)) ∧
    (∃ u, OnlyBit b.intrOnBreak false s.status u ∧
      exec .clrIntrBreak s = .next ({ s with status := u }.gate false)) ∧
    (∃ u, OnlyBit b.intrOnBreak true s.status u ∧
      exec .setIntrBreak s = .next ({ s with status := u }.gate false))

/-- R171, R173, ..., R185: the clear command of each signal clears that signal, where
`STATUS_FLAG_BIT` places it, and nothing else before the gating. -/
def Obligations.SignalClearsClearTheirOneSignal : Prop :=
  ∀ (s : State) (n : Fin 8) (i : Instr),
    [Instr.clrSig0, .clrSig1, .clrSig2, .clrSig3, .clrSig4, .clrSig5, .clrSig6,
      .clrSig7][n.val]? = some i →
    ∃ u, OnlyBit (s.config.flagBits.sig.get n) false s.status u ∧
      exec i s = .next ({ s with status := u }.gate false)

/-- R174, R176, ..., R186: the set command of each signal but SIG0 sets that signal, where
`STATUS_FLAG_BIT` places it, and nothing else before the gating. -/
def Obligations.SignalSetsSetTheirOneSignal : Prop :=
  ∀ (s : State) (n : Fin 8) (i : Instr), n ≠ 0 →
    [Instr.setSig0, .setSig1, .setSig2, .setSig3, .setSig4, .setSig5, .setSig6,
      .setSig7][n.val]? = some i →
    ∃ u, OnlyBit (s.config.flagBits.sig.get n) true s.status u ∧
      exec i s = .next ({ s with status := u }.gate false)

/-- R172: SET_SIG0 sets SIG0 and, with `audioSignalEnabled`, raises the coprocessor interrupt, whether
or not SIG0 was set. That raising sets the one pending bit is the controller that R284 allows, the
model's choice (log entry 15). -/
def Obligations.SetSigZeroRaisesTheInterruptWhenAudioIsOn : Prop :=
  ∀ s : State, ∃ u, OnlyBit (s.config.flagBits.sig.get 0) true s.status u ∧
    (s.config.audioSignalEnabled = true →
      exec .setSig0 s = .next ({ s with
        status := u, spPending := true, calls := s.calls ++ [Call.raiseInterrupt .sp] }.gate false)) ∧
    (s.config.audioSignalEnabled = false →
      exec .setSig0 s = .next ({ s with status := u }.gate false))

/-- R165, R166: the interrupt commands call the interrupt controller and leave STATUS alone; the
call of SET_INTR is the parameter `INTR_SET_CALL` (D19). The one pending bit is the controller that
R284 allows, the model's choice (log entry 15). -/
def Obligations.InterruptCommandsCallTheController : Prop :=
  ∀ s : State,
    exec .clrIntr s = .next ({ s with
      spPending := false, calls := s.calls ++ [Call.clearPendingInterrupt .sp] }.gate false) ∧
    (s.config.intrSetCall = .schedulePending →
      exec .setIntr s = .next ({ s with
        spPending := true, calls := s.calls ++ [Call.schedulePendingInterrupt .sp] }.gate false)) ∧
    (s.config.intrSetCall = .raise →
      exec .setIntr s = .next ({ s with
        spPending := true, calls := s.calls ++ [Call.raiseInterrupt .sp] }.gate false))

/-- R160, R188: a STATUS write clears, then sets, then makes its interrupt calls, then comes to the
gating. Every flag ends set if its set command is present, else clear if its clear command is, else
as it was; no other bit of STATUS changes. Flags and commands stand where the two tables place them.
Decisions in it: the word is `wdata & wmask` (D6) and the calls come in this order (D20), both log
entry 14; the call of SET_INTR (D19); the pending bit is the one-bit controller that R284 allows
(log entry 15). -/
def Obligations.StatusWriteClearsThenSetsThenCalls : Prop :=
  ∀ (s : State) (v m w : Word) (b : FlagBits) (p : CmdBits), w = v &&& m →
    b = s.config.flagBits → p = s.config.cmdBits → s.config.intrSetCall = .schedulePending →
    ∃ u : Word,
      u.getLsbD b.halt = (w.getLsbD p.setHalt || (s.status.getLsbD b.halt && !w.getLsbD p.clrHalt)) ∧
      u.getLsbD b.broke = (s.status.getLsbD b.broke && !w.getLsbD p.clrBroke) ∧
      u.getLsbD b.sstep =
        (w.getLsbD p.setSstep || (s.status.getLsbD b.sstep && !w.getLsbD p.clrSstep)) ∧
      u.getLsbD b.intrOnBreak = (w.getLsbD p.setIntrBreak ||
        (s.status.getLsbD b.intrOnBreak && !w.getLsbD p.clrIntrBreak)) ∧
      (∀ n : Fin 8, u.getLsbD (b.sig.get n) = (w.getLsbD (p.setSig.get n) ||
        (s.status.getLsbD (b.sig.get n) && !w.getLsbD (p.clrSig.get n)))) ∧
      (∀ i, (∀ f : Flag, flagBit b f ≠ i) → u.getLsbD i = s.status.getLsbD i) ∧
      s.statusEffects w = { s with
        status := u
        spPending := (w.getLsbD (p.setSig.get 0) && s.config.audioSignalEnabled) ||
          w.getLsbD p.setIntr || (s.spPending && !w.getLsbD p.clrIntr)
        calls := s.calls ++
          (if w.getLsbD p.clrIntr then [Call.clearPendingInterrupt .sp] else []) ++
          (if w.getLsbD p.setIntr then [Call.schedulePendingInterrupt .sp] else []) ++
          (if w.getLsbD (p.setSig.get 0) && s.config.audioSignalEnabled then
            [Call.raiseInterrupt .sp] else []) } ∧
      exec (.wrStatus v m) s =
        .next ((s.statusEffects w).gate (w.getLsbD p.clrHalt || w.getLsbD p.clrBroke))

/-- R164, R187: the bits without a command are ignored, bits 3 and 26 to 31 under the table of R95.
That the bits the mask does not select make no difference is decision D6 (log entry 14). -/
def Obligations.ReservedCommandBitsAreIgnored : Prop :=
  ∀ (s : State) (v m v' m' : Word),
    ((∀ c : Command, (v &&& m).getLsbD (c.bit s.config.cmdBits) =
        (v' &&& m').getLsbD (c.bit s.config.cmdBits)) →
      exec (.wrStatus v m) s = exec (.wrStatus v' m') s) ∧
    (s.config.cmdBits = .spec →
      (v &&& m) &&& 0x03FFFFF7#32 = (v' &&& m') &&& 0x03FFFFF7#32 →
      exec (.wrStatus v m) s = exec (.wrStatus v' m') s)

/-- R189 to R191: with the task locked and a completion event pending, a STATUS write ends after its
effects, whatever its word; otherwise a word that carries neither CLR_HALT nor CLR_BROKE ends there
unless the task is locked; otherwise the write dispatches if its effects leave neither HALT nor
BROKE set and ends if not, which is what `REDISPATCH` does at that state. The polarity of the lock
in the second and third clause (D16) and the sense of "cleared" (D17) are readings that R190 marks
as this spec's own, and the word is `wdata & wmask` by D6 (log entry 14). -/
def Obligations.GatesDecideWhetherAStatusWriteDispatches : Prop :=
  ∀ (s : State) (v m w : Word) (p : CmdBits), w = v &&& m → p = s.config.cmdBits →
    (s.taskLocked = true → (∃ e ∈ s.timeline, e.kind = .spInt) →
      exec (.wrStatus v m) s = .next (s.statusEffects w)) ∧
    (s.taskLocked = false → w.getLsbD p.clrHalt = false → w.getLsbD p.clrBroke = false →
      exec (.wrStatus v m) s = .next (s.statusEffects w)) ∧
    (s.taskLocked = false ∨ (∀ e ∈ s.timeline, e.kind ≠ .spInt) →
      w.getLsbD p.clrHalt = true ∨ w.getLsbD p.clrBroke = true ∨ s.taskLocked = true →
      exec (.wrStatus v m) s = exec .redispatch (s.statusEffects w))

/-! ## DMA -/

/-- R211 to R213 on a length word: the row lengths of both directions, the row count and the skip. -/
def Obligations.LengthWordGivesLengthCountAndSkip : Prop :=
  ∀ L : Word,
    lengthToLocal (lenRaw L) = 8 * (L.toNat % 4096 / 8) + 8 ∧
    lengthToMain (lenRaw L) = L.toNat % 4096 + 1 ∧
    rowCount (lenCountM1 L) = L.toNat / 4096 % 256 + 1 ∧
    skipBytes (lenSkip L) = L.toNat / 1048576

/-- R215, R217, R219: `DMA.TO_LOCAL` completes; byte `i` of row `j` comes from its main address, the
last byte written to a local address stays; every other local byte and all other state is
unchanged. -/
def Obligations.TransferInCopiesRowsAndNothingElse : Prop :=
  ∀ (s : State) (skip : BitVec 12) (cm : BitVec 8) (l : BitVec 12) (len count m0 d0 : Nat),
    s.Inv → len = (l.toNat ||| 7) + 1 → count = cm.toNat + 1 →
    m0 = (s.memAddr &&& 0x1FFF#32).toNat → d0 = (s.dramAddr &&& 0xFFFFFF#32).toNat →
    ∃ t, exec (.dmaToLocal skip cm l) s = .next t ∧ t = { s with lm := t.lm } ∧
      (∀ j i, j < count → i < len →
        (∀ j' i', j' < count → i' < len → j * len + i < j' * len + i' →
          (m0 + j' * len + i') % 8192 ≠ (m0 + j * len + i) % 8192) →
        t.lmRead ((m0 + j * len + i) % 8192) = s.mainRead (d0 + j * (len + skip.toNat) + i)) ∧
      (∀ a, a < 8192 → (∀ j i, j < count → i < len → (m0 + j * len + i) % 8192 ≠ a) →
        t.lmRead a = s.lmRead a)

/-- R216, R217, R219: `DMA.TO_MAIN` completes; byte `i` of row `j` goes to its main address, the last
byte written to a main address stays; every other main byte and all other state is unchanged. -/
def Obligations.TransferOutCopiesRowsAndNothingElse : Prop :=
  ∀ (s : State) (skip : BitVec 12) (cm : BitVec 8) (l : BitVec 12) (len count m0 d0 size : Nat),
    s.Inv → len = l.toNat + 1 → count = cm.toNat + 1 → size = 2 ^ s.config.mainMemBits →
    m0 = (s.memAddr &&& 0x1FFF#32).toNat → d0 = (s.dramAddr &&& 0xFFFFFF#32).toNat →
    ∃ t, exec (.dmaToMain skip cm l) s = .next t ∧ t = { s with main := t.main } ∧
      (∀ j i, j < count → i < len →
        (∀ j' i', j' < count → i' < len → j * len + i < j' * len + i' →
          (d0 + j' * (len + skip.toNat) + i') % size ≠ (d0 + j * (len + skip.toNat) + i) % size) →
        t.mainRead (d0 + j * (len + skip.toNat) + i) = s.lmRead (m0 + j * len + i)) ∧
      (∀ a, (∀ j i, j < count → i < len →
          (d0 + j * (len + skip.toNat) + i) % size ≠ a % size) →
        t.mainRead a = s.mainRead a)

/-- R222: a transfer in and a transfer back out with the same length word and addresses leave main
memory as it was, under the conditions the rule gives. -/
def Obligations.TransferInThenOutRestoresMainMemory : Prop :=
  ∀ (s : State) (L m : Word), s.Inv → m = 0xFFFFFFFF#32 →
    (L.toNat / 4096 % 256 + 1) * ((L.toNat % 4096 ||| 7) + 1) ≤ 8192 →
    (L.toNat / 4096 % 256 = 0 ∨ L.toNat % 8 = 7) →
    ∃ t u, exec (.wrRdLen L m) s = .next t ∧ exec (.wrWrLen L m) t = .next u ∧
      u.main = s.main ∧ u.lm = t.lm

/-! ## Dispatch, completion, port events -/

/-- R246: an executor call is recorded with the program counter it sees and `EXEC_MAX_STEPS`, makes
the changes of its answer one after the other, each of them in full and nothing beside it, and
changes neither the configuration nor the lock. With nothing left in the script it makes the
changes of the free value. That the answer comes from a script or a free value, and that it leaves
the lock alone, is the model's choice (log entry 4). -/
def Obligations.ExecutorCallAppliesItsAnswer : Prop :=
  ∀ (s : State) (k : ExecKind),
    ((s.execCall k).calls = s.calls ++ [match k with
      | .primary => .runUntilYield s.pc s.config.execMaxSteps
      | .audio => .runUntilYieldAudio s.pc s.config.execMaxSteps] ∧
    (s.execCall k).config = s.config ∧ (s.execCall k).taskLocked = s.taskLocked ∧
    (s.execCall k).rdata = s.rdata ∧ (s.execCall k).requests = s.requests ∧
    (s.execCall k).execCount = s.execCount + 1 ∧
    (s.execCall k).execScript = s.execScript.tail) ∧
    (∀ rest, s.execScript = [] :: rest →
      s.execCall k = { s with
        calls := (s.execCall k).calls, execScript := rest, execCount := s.execCount + 1 }) ∧
    (∀ (es : List ExecEdit) (e : ExecEdit) (rest : List (List ExecEdit)), s.Inv →
      s.execScript = (es ++ [e]) :: rest →
      EditDone e ({ s with execScript := es :: rest }.execCall k) (s.execCall k)) ∧
    (s.execScript = [] →
      s.execCall k = { s with execScript := [Config.executor (s.execView k)] }.execCall k)

/-- R244, R245: any other tag runs the primary executor once with the program counter masked,
restores the bits outside the mask, and goes on to the post-run step. -/
def Obligations.DefaultPathRunsThePrimaryExecutor : Prop :=
  ∀ (s : State) (tag : Word),
    ∃ ran pc' t, ran = ({ s with pc := s.pc &&& s.config.pcMask }).execCall .primary ∧
      Merged s.pc ran.pc s.config.pcMask pc' ∧
      exec (.dispatchOther tag) s = .next t ∧ exec .postrun { ran with pc := pc' } = .next t

/-- R243, R245: tag 2 runs the executor that `audioHleMode` picks, with no raster-stage interaction,
frozen or not. -/
def Obligations.AudioPathRunsTheConfiguredExecutor : Prop :=
  ∀ s : State,
    ∃ ran pc' t, ran = ({ s with pc := s.pc &&& s.config.pcMask }).execCall
        (if s.config.audioHleMode then .audio else .primary) ∧
      Merged s.pc ran.pc s.config.pcMask pc' ∧
      exec .dispatchAudio s = .next t ∧ exec .postrun { ran with pc := pc' } = .next t

/-- R242, R245: the graphics path, when it is not deferred: unprotect, run the primary executor with
the program counter masked, signal a new frame, consume the raster interrupt flag and schedule the
display event if it was set, protect again, and go on to the post-run step. -/
def Obligations.GraphicsPathWhenNotFrozen : Prop :=
  ∀ s : State, s.config.skipFreezeCheck = true ∨ s.frozen = false →
    ∃ ran pc' t,
      ran = ({ s with
        fbProtected := false
        calls := s.calls ++ (if s.config.skipFreezeCheck then [] else [Call.isFrozen false]) ++
          [Call.unprotectFramebuffers]
        pc := s.pc &&& s.config.pcMask }).execCall .primary ∧
      Merged s.pc ran.pc s.config.pcMask pc' ∧
      exec .dispatchGfx s = .next t ∧
      exec .postrun { ran with
        pc := pc'
        rasterIntr := false
        fbProtected := true
        timeline := ran.timeline ++
          (if ran.rasterIntr then [Event.mk .dpInt s.config.dpInterruptDelay] else [])
        calls := ran.calls ++ [Call.newFrame, Call.consumeInterruptFlag ran.rasterIntr] ++
          (if ran.rasterIntr then [Call.scheduleEvent .dpInt s.config.dpInterruptDelay] else []) ++
          [Call.protectFramebuffers] } = .next t

/-- R250: a graphics task is deferred while the raster stage is frozen: nothing changes but the
record of the one question asked. -/
def Obligations.FrozenGraphicsTaskIsDeferred : Prop :=
  ∀ s : State, s.config.skipFreezeCheck = false → s.frozen = true →
    exec .dispatchGfx s = .next { s with calls := s.calls ++ [Call.isFrozen true] }

/-- R247: the post-run step. -/
def Obligations.PostRunLocksAndSchedulesWhileRunning : Prop :=
  ∀ (s : State) (b : FlagBits), b = s.config.flagBits →
    (s.status.getLsbD b.halt = false ∧ s.status.getLsbD b.broke = false →
      exec .postrun s = .next { s with
        taskLocked := true
        timeline := s.timeline ++ [Event.mk .spInt s.config.spCompletionDelay]
        calls := s.calls ++ [Call.scheduleEvent .spInt s.config.spCompletionDelay] }) ∧
    (s.status.getLsbD b.halt = true ∨ s.status.getLsbD b.broke = true →
      exec .postrun s = .next { s with taskLocked := false })

/-- R248: delivery takes one completion event off the timeline and raises the interrupt exactly when
INTR_ON_BREAK is set now; STATUS stays, and so does `taskLocked` unless `DELIVERY_CLEARS_LOCK`
(D18). That the first of several completion events is the one to go is the model's choice (log
entries 12 and 19: the spec's timeline is a multiset), and so is the one pending bit that raising
sets (R284, log entry 15). -/
def Obligations.DeliveryRaisesIfIntrOnBreakIsSet : Prop :=
  ∀ (s : State) (e : Event) (before after : List Event) (raised : Bool), e.kind = .spInt →
    (∀ e' ∈ before, e'.kind ≠ .spInt) → s.timeline = before ++ e :: after →
    raised = s.status.getLsbD s.config.flagBits.intrOnBreak →
    exec .deliverSpInt s = .next { s with
      timeline := before ++ after
      taskLocked := s.taskLocked && !s.config.deliveryClearsLock
      spPending := s.spPending || raised
      calls := s.calls ++ (if raised then [Call.raiseInterrupt .sp] else []) }

/-- R249, R241: a re-dispatch request takes the path of the tag word at 0xFC0 when neither HALT nor
BROKE is set, and does nothing otherwise. That it tests the two flags and does not look at the lock
is decision D23 (log entry 20). -/
def Obligations.RedispatchTakesThePathOfTheTag : Prop :=
  ∀ (s : State) (b : FlagBits), b = s.config.flagBits →
    (s.status.getLsbD b.halt = true ∨ s.status.getLsbD b.broke = true →
      exec .redispatch s = .next s) ∧
    (s.status.getLsbD b.halt = false → s.status.getLsbD b.broke = false →
      (s.lmWord 0xFC0 = 1 → ∃ t, exec .redispatch s = .next t ∧ exec .dispatchGfx s = .next t) ∧
      (s.lmWord 0xFC0 = 2 → ∃ t, exec .redispatch s = .next t ∧ exec .dispatchAudio s = .next t) ∧
      (s.lmWord 0xFC0 ≠ 1 → s.lmWord 0xFC0 ≠ 2 →
        ∃ t, exec .redispatch s = .next t ∧ exec (.dispatchOther (s.lmWord 0xFC0)) s = .next t))

/-- R310: RESET gives the block's own state its reset values and touches nothing of the
environment. -/
def Obligations.ResetTouchesTheBlockOnly : Prop :=
  ∀ s : State, ∃ t, exec .reset s = .next t ∧
    (∀ a, t.lmRead a = 0) ∧ (∀ k, t.pr k = 0) ∧
    OnlyBit s.config.flagBits.halt true 0 t.status ∧
    t = { s with
      lm := t.lm, pcRegs := t.pcRegs, memAddr := 0, dramAddr := 0, rdLen := 0, wrLen := 0,
      status := t.status, dmaFull := 0, dmaBusy := 0, semaphore := 0, pc := 0,
      taskLocked := false }

/-- R251: the source's dispatch-gating property. With HALT set no task runs: not by a STATUS write
whose effects leave it set, not by a re-dispatch request, and no other operation of an agent runs
one at all. From an unlocked task with BROKE clear and tag 1, a STATUS write that carries CLR_HALT
and not SET_HALT runs nothing and leaves the task unlocked while the raster stage is frozen and is
asked, and otherwise runs the executor once and schedules one completion event if HALT and BROKE
remain clear. -/
def Obligations.DispatchGatingProperty : Prop :=
  (∀ (s t : State) (v m : Word),
    (s.statusEffects (v &&& m)).status.getLsbD s.config.flagBits.halt = true →
    exec (.wrStatus v m) s = .next t → NoRun s t) ∧
  (∀ s t : State, s.status.getLsbD s.config.flagBits.halt = true →
    exec .redispatch s = .next t → NoRun s t) ∧
  (∀ (i : Instr) (s t : State), i.mayDispatch = false → exec i s = .next t → NoRun s t) ∧
  (∀ (s : State) (v m : Word) (b : FlagBits) (p : CmdBits),
    b = s.config.flagBits → p = s.config.cmdBits →
    s.taskLocked = false → s.status.getLsbD b.broke = false → s.lmWord 0xFC0 = 1 →
    (v &&& m).getLsbD p.clrHalt = true → (v &&& m).getLsbD p.setHalt = false →
    ∃ t, exec (.wrStatus v m) s = .next t ∧
      (s.config.skipFreezeCheck = false → s.frozen = true → NoRun s t ∧ t.taskLocked = false) ∧
      (s.config.skipFreezeCheck = true ∨ s.frozen = false →
        callCount Call.isRun t.calls = callCount Call.isRun s.calls + 1 ∧
        t.execCount = s.execCount + 1 ∧
        (t.status.getLsbD b.halt = false → t.status.getLsbD b.broke = false →
          callCount (Call.schedules .spInt) t.calls =
            callCount (Call.schedules .spInt) s.calls + 1)))

/-- R252: one dispatch makes at most one executor call and schedules at most one event of each
kind. -/
def Obligations.OneDispatchRunsAndSchedulesAtMostOnce : Prop :=
  ∀ (s t : State) (i : Instr) (tag : Word), i ∈ [.dispatchGfx, .dispatchAudio, .dispatchOther tag] →
    exec i s = .next t →
    ∃ new, t.calls = s.calls ++ new ∧ callCount Call.isRun new ≤ 1 ∧
      callCount (Call.schedules .spInt) new ≤ 1 ∧ callCount (Call.schedules .dpInt) new ≤ 1

/-- R245, R36: whatever the executor does, a dispatch leaves the bits of the program counter outside
`PC_MASK` as they were, and one that was not deferred leaves the task locked exactly while the
coprocessor is running. -/
def Obligations.DispatchKeepsHighPcBitsAndLocksWhileRunning : Prop :=
  ∀ (s t : State) (i : Instr) (tag : Word), i ∈ [.dispatchGfx, .dispatchAudio, .dispatchOther tag] →
    exec i s = .next t →
    (∀ n, n < 32 → s.config.pcMask.getLsbD n = false → t.pc.getLsbD n = s.pc.getLsbD n) ∧
    (t.execCount ≠ s.execCount →
      (t.taskLocked = true ↔ t.status.getLsbD s.config.flagBits.halt = false ∧
        t.status.getLsbD s.config.flagBits.broke = false) ∧
      (t.taskLocked = true →
        t.timeline.getLast? = some ⟨.spInt, s.config.spCompletionDelay⟩))

/-! ## Whole-machine rules -/

/-- R282: every path by which the block touches the `SP` source. -/
def Obligations.PathsToTheInterruptControllerAreComplete : Prop :=
  ∀ (i : Instr) (s t : State) (new : List Call) (p : CmdBits), p = s.config.cmdBits →
    s.config.intrSetCall = .schedulePending →
    exec i s = .next t → t.calls = s.calls ++ new →
    (Call.schedulePendingInterrupt .sp ∈ new →
      i = .setIntr ∨ ∃ v m, i = .wrStatus v m ∧ (v &&& m).getLsbD p.setIntr = true) ∧
    (Call.clearPendingInterrupt .sp ∈ new →
      i = .clrIntr ∨ ∃ v m, i = .wrStatus v m ∧ (v &&& m).getLsbD p.clrIntr = true) ∧
    (Call.raiseInterrupt .sp ∈ new →
      (s.config.audioSignalEnabled = true ∧
        (i = .setSig0 ∨ ∃ v m, i = .wrStatus v m ∧ (v &&& m).getLsbD (p.setSig.get 0) = true)) ∨
      (i = .deliverSpInt ∧ s.status.getLsbD s.config.flagBits.intrOnBreak = true))

/-- R32, R33, R29, R35: where no executor ran, local memory changes only by WR.MEM, a transfer in and
RESET; main memory only by a transfer out; the program counter only by WR.PC and RESET; DMA_FULL and
DMA_BUSY only by RESET; `taskLocked` only by the post-run step, RESET and, under
`DELIVERY_CLEARS_LOCK`, delivery. -/
def Obligations.OnlyTheseOperationsChangeTheseState : Prop :=
  ∀ (i : Instr) (s t : State), exec i s = .next t → t.execCount = s.execCount →
    (t.lm ≠ s.lm → i = .reset ∨ (∃ a v m, i = .wrMem a v m) ∨ (∃ v m, i = .wrRdLen v m) ∨
      ∃ k c l, i = .dmaToLocal k c l) ∧
    (t.main ≠ s.main → (∃ v m, i = .wrWrLen v m) ∨ ∃ k c l, i = .dmaToMain k c l) ∧
    (t.pc ≠ s.pc → i = .reset ∨ (∃ v m, i = .wrPc v m) ∨
      ∃ k v m, i = .wrPcreg k v m ∧ i.wf s.config = false) ∧
    (t.dmaFull ≠ s.dmaFull ∨ t.dmaBusy ≠ s.dmaBusy → i = .reset) ∧
    (t.taskLocked ≠ s.taskLocked → i = .reset ∨ i = .postrun ∨
      (i = .deliverSpInt ∧ s.config.deliveryClearsLock = true))

/-- R27, R28, U25: where no executor ran, no operation but RESET changes a bit of STATUS that holds no
flag (bits 2, 3, 4 and 15 to 31 under D4), and none sets BROKE. -/
def Obligations.StatusChangesOnlyInItsFlagsAndBrokeOnlyFalls : Prop :=
  ∀ (i : Instr) (s t : State) (b : FlagBits), b = s.config.flagBits →
    exec i s = .next t → t.execCount = s.execCount →
    (i ≠ .reset → ∀ n, (∀ f : Flag, flagBit b f ≠ n) → t.status.getLsbD n = s.status.getLsbD n) ∧
    (b = .spec → i ≠ .reset →
      ∀ n, n ∈ [2, 3, 4] ∨ 15 ≤ n → t.status.getLsbD n = s.status.getLsbD n) ∧
    (t.status.getLsbD b.broke = true → s.status.getLsbD b.broke = true)

/-- R246, R6: no operation changes the parameters of the machine or drops a recorded call, and an
operation that is no STATUS write, command, dispatch, post-run step or re-dispatch calls no
executor. -/
def Obligations.ConfigurationIsConstantAndRecordsStay : Prop :=
  ∀ (i : Instr) (s t : State), exec i s = .next t →
    t.config = s.config ∧ t.requests = s.requests ∧ (∃ new, t.calls = s.calls ++ new) ∧
    (i.mayDispatch = false → t.execCount = s.execCount ∧ t.execScript = s.execScript)

/-- R294: register file, local memory and DMA engine work the same whatever STATUS holds: only
dispatch is gated by HALT. -/
def Obligations.HaltGatesNothingButDispatch : Prop :=
  ∀ (i : Instr) (s t : State) (u : Word), i.mayDispatch = false →
    i ≠ .rdStatus → i ≠ .deliverSpInt → i ≠ .reset → exec i s = .next t →
    exec i { s with status := u } = .next { t with status := u }

/-- R247, R249: at most one `SP_INT` event is outstanding, and while one is, the task is locked.
Every operation keeps that: those that do not pass the gates (a re-dispatch request, the post-run
step, a dispatch row) and RESET where no such event is outstanding before, all others always; and
where it calls an executor, as long as the executor leaves the completion events to the block. -/
def Obligations.AtMostOneCompletionEventIsOutstanding : Prop :=
  ∀ (i : Instr) (s t : State), s.SingleCompletion →
    ((∃ tag, i ∈ [.reset, .redispatch, .postrun, .dispatchGfx, .dispatchAudio,
      .dispatchOther tag]) → s.outstanding .spInt = 0) →
    exec i s = .next t →
    (t.execCount ≠ s.execCount → s.NextAnswerLeavesCompletion) → t.SingleCompletion

/-- R95 (D5), R27 (D4): the placements that the construction arguments have by default: the 25
commands of the written word and the twelve flags of the stored word. The flag positions are taken
from outside the source by D4 (log entry 11). -/
def Obligations.TablesPlaceCommandsAndFlagsAsTheSpecDecides : Prop :=
  (Config.default.cmdBits = .spec ∧ Config.default.flagBits = .spec) ∧
  (∀ p ∈ [(Command.clrHalt, 0x00000001#32), (.setHalt, 0x00000002#32), (.clrBroke, 0x00000004#32),
      (.clrIntr, 0x00000010#32), (.setIntr, 0x00000020#32), (.clrSstep, 0x00000040#32),
      (.setSstep, 0x00000080#32), (.clrIntrBreak, 0x00000100#32), (.setIntrBreak, 0x00000200#32)],
    p.1.word .spec = p.2) ∧
  (∀ p ∈ [(Command.clrSig 0, 0x00000400#32), (.setSig 0, 0x00000800#32),
      (.clrSig 1, 0x00001000#32), (.setSig 1, 0x00002000#32), (.clrSig 2, 0x00004000#32),
      (.setSig 2, 0x00008000#32), (.clrSig 3, 0x00010000#32), (.setSig 3, 0x00020000#32),
      (.clrSig 4, 0x00040000#32), (.setSig 4, 0x00080000#32), (.clrSig 5, 0x00100000#32),
      (.setSig 5, 0x00200000#32), (.clrSig 6, 0x00400000#32), (.setSig 6, 0x00800000#32),
      (.clrSig 7, 0x01000000#32), (.setSig 7, 0x02000000#32)], p.1.word .spec = p.2) ∧
  (∀ p ∈ [(Flag.halt, 0x0001#32), (.broke, 0x0002#32), (.sstep, 0x0020#32),
      (.intrOnBreak, 0x0040#32), (.sig 0, 0x0080#32), (.sig 1, 0x0100#32), (.sig 2, 0x0200#32),
      (.sig 3, 0x0400#32), (.sig 4, 0x0800#32), (.sig 5, 0x1000#32), (.sig 6, 0x2000#32),
      (.sig 7, 0x4000#32)], flagMask .spec p.1 = p.2)
end

