-- ==== Sys2Proof/Laws/Decode.lean ====
section
/-! SUPPORT. The decoder's fields as numbers, and what the encoder's words read back as
(30_encoding.md R91 to R98). -/

namespace Sys2Proof

@[simp] theorem Format.ofSel_sel (f : Format) : Format.ofSel f.sel = some f := by cases f <;> rfl

/-- A selector that names no format is one of the model's unused numbers. -/
theorem Format.ofSel_eq_none {sel : Byte} (h : Format.ofSel sel = none) : 14 ≤ sel.toNat := by
  by_contra hlt
  have hn : sel = BitVec.ofNat 8 sel.toNat := by simp
  rw [hn] at h
  revert h
  have : sel.toNat < 14 := by omega
  generalize sel.toNat = n at this
  interval_cases n <;> decide

/-- `addr[4:2]` is `(addr >> 2) & 7` (R91). -/
theorem ctrlIndex_toNat (addr : Word) : (ctrlIndex addr).toNat = ((addr >>> 2) &&& 7#32).toNat := by
  rw [BitVec.toNat_and, show (7#32).toNat = 2 ^ 3 - 1 from rfl, Nat.and_two_pow_sub_one_eq_mod]
  simp [ctrlIndex, BitVec.extractLsb'_toNat]

/-- `(addr >> 2) & (PCREGS_COUNT - 1)` is the remainder (R92). -/
theorem pcIndex_toNat (c : Config) (addr : Word) :
    (pcIndex c addr).toNat = addr.toNat / 4 % 2 ^ c.pcregsBits := by
  unfold pcIndex Config.pcregsCount
  rw [Nat.and_two_pow_sub_one_eq_mod, BitVec.toNat_ofNat, Nat.shiftRight_eq_div_pow]
  have h1 : addr.toNat / 2 ^ 2 < 2 ^ 30 := by have := addr.isLt; omega
  have h2 := Nat.mod_le (addr.toNat / 2 ^ 2) (2 ^ c.pcregsBits)
  rw [Nat.mod_eq_of_lt (by omega)]

theorem pcIndex_eq_zero (c : Config) (addr : Word) :
    pcIndex c addr = 0 ↔ addr.toNat / 4 % 2 ^ c.pcregsBits = 0 := by
  rw [← pcIndex_toNat]
  exact ⟨fun h => by rw [h]; rfl, fun h => BitVec.eq_of_toNat_eq h⟩

/-- `addr[12:2]` is a quarter of `addr & 0x1FFC` (R93). -/
theorem memIndex_toNat (addr : Word) : 4 * (memIndex addr).toNat = (addr &&& 0x1FFC#32).toNat := by
  have h : (addr &&& 0x1FFC#32) = (memIndex addr ++ 0#2).setWidth 32 := by
    apply BitVec.eq_of_getLsbD_eq
    intro i hi
    have hm : (0x1FFC#32).getLsbD i = (decide (2 ≤ i) && decide (i < 13)) := by
      interval_cases i <;> rfl
    rw [BitVec.getLsbD_and, hm, BitVec.getLsbD_setWidth, BitVec.getLsbD_append]
    by_cases h2 : i < 2
    · simp [h2, hi]
    · by_cases h13 : i < 13
      · simp [h2, hi, memIndex, show i - 2 < 11 by omega,
          show 2 + (i - 2) = i by omega, h13, show 2 ≤ i by omega]
      · simp [h2, hi, memIndex, BitVec.getLsbD_extractLsb', show ¬ i - 2 < 11 by omega, h13]
  have ha := (memIndex addr).isLt
  rw [h, BitVec.toNat_setWidth, BitVec.toNat_append, Nat.shiftLeft_eq]
  simp only [BitVec.toNat_ofNat, Nat.zero_mod, Nat.or_zero]
  omega

/-- The encoder's addresses read back as the index they were made from. -/
theorem memIndex_memAddrOf (a : BitVec 11) : memIndex (memAddrOf a) = a := by
  apply BitVec.eq_of_toNat_eq
  simp [memIndex, memAddrOf, BitVec.extractLsb'_toNat, Nat.shiftRight_eq_div_pow]
  omega

theorem pcAddr_toNat (k : BitVec 30) : (pcAddr k).toNat = 4 * k.toNat := by
  unfold pcAddr
  rw [BitVec.toNat_append, Nat.shiftLeft_eq]
  simp only [BitVec.toNat_ofNat, Nat.zero_mod, Nat.or_zero]
  omega

theorem pcIndex_pcAddr {c : Config} {k : BitVec 30} (h : k.toNat < c.pcregsCount) :
    pcIndex c (pcAddr k) = k := by
  apply BitVec.eq_of_toNat_eq
  rw [pcIndex_toNat, pcAddr_toNat, Nat.mul_div_cancel_left _ (by omega)]
  exact Nat.mod_eq_of_lt h

theorem pcregIndexOk_iff (c : Config) (k : BitVec 30) :
    pcregIndexOk c k = true ↔ k ≠ 0 ∧ k.toNat < c.pcregsCount := by
  simp [pcregIndexOk]

/-- The three fields of a length word (R96). -/
theorem lenSkip_lenWord (s : BitVec 12) (c : BitVec 8) (l : BitVec 12) :
    lenSkip (lenWord s c l) = s := by
  unfold lenSkip lenWord
  apply BitVec.eq_of_getLsbD_eq
  intro i hi
  rw [BitVec.getLsbD_extractLsb', BitVec.getLsbD_append, BitVec.getLsbD_append]
  simp [hi, show ¬ 20 + i < 12 by omega, show ¬ 20 + i - 12 < 8 by omega,
    show 20 + i - 12 - 8 = i by omega]

theorem lenCountM1_lenWord (s : BitVec 12) (c : BitVec 8) (l : BitVec 12) :
    lenCountM1 (lenWord s c l) = c := by
  unfold lenCountM1 lenWord
  apply BitVec.eq_of_getLsbD_eq
  intro i hi
  rw [BitVec.getLsbD_extractLsb', BitVec.getLsbD_append, BitVec.getLsbD_append]
  simp [hi, show ¬ 12 + i < 12 by omega, show 12 + i - 12 = i by omega]

theorem lenRaw_lenWord (s : BitVec 12) (c : BitVec 8) (l : BitVec 12) :
    lenRaw (lenWord s c l) = l := by
  unfold lenRaw lenWord
  apply BitVec.eq_of_getLsbD_eq
  intro i hi
  rw [BitVec.getLsbD_extractLsb', BitVec.getLsbD_append]
  simp [hi]

theorem decodeTag_other {tag : Word} (h : otherTagOk tag = true) :
    decodeTag tag = .dispatchOther tag := by
  simp only [otherTagOk, Bool.and_eq_true, bne_iff_ne] at h
  unfold decodeTag
  rw [if_neg h.1, if_neg h.2]

/-! ## The command table -/

theorem toList_eight {α : Type} (v : Vector α 8) :
    v.toList = [v.get 0, v.get 1, v.get 2, v.get 3, v.get 4, v.get 5, v.get 6, v.get 7] := by
  apply List.ext_getElem
  · simp
  · intro i h1 h2
    simp only [List.length_cons, List.length_nil] at h2
    interval_cases i <;> simp [Vector.get]

theorem Command.mem_all (c : Command) : c ∈ Command.all := by
  cases c with
  | clrSig n => fin_cases n <;> simp [Command.all]
  | setSig n => fin_cases n <;> simp [Command.all]
  | _ => simp [Command.all]

theorem Command.bit_lt (c : Command) (b : CmdBits) : c.bit b < 32 := by
  cases c <;> exact Fin.isLt _

/-- The commands in the order of the fields of `CmdBits`. -/
def Command.byField : List Command :=
  [.clrHalt, .setHalt, .clrBroke, .clrIntr, .setIntr, .clrSstep, .setSstep, .clrIntrBreak,
    .setIntrBreak, .clrSig 0, .clrSig 1, .clrSig 2, .clrSig 3, .clrSig 4, .clrSig 5, .clrSig 6,
    .clrSig 7, .setSig 0, .setSig 1, .setSig 2, .setSig 3, .setSig 4, .setSig 5, .setSig 6,
    .setSig 7]

theorem Command.mem_byField (c : Command) : c ∈ Command.byField := by
  cases c with
  | clrSig n => fin_cases n <;> simp [Command.byField]
  | setSig n => fin_cases n <;> simp [Command.byField]
  | _ => simp [Command.byField]

/-- Two commands never share a bit (R188). -/
theorem Command.bit_injective (b : CmdBits) {c d : Command} (h : c.bit b = d.bit b) : c = d := by
  have hd : (Command.byField.map (Command.bit · b)).Nodup := by
    have := b.distinct.map (f := Fin.val) Fin.val_injective
    rw [toList_eight, toList_eight] at this
    exact this
  exact List.inj_on_of_nodup_map hd c.mem_byField d.mem_byField h

/-- The word of one command carries that command and no other. -/
theorem Command.present_word (b : CmdBits) (c d : Command) :
    d.present b (c.word b) = decide (d = c) := by
  unfold Command.present Command.word
  rw [BitVec.getLsbD_ofNat, Nat.testBit_two_pow, decide_eq_true (d.bit_lt b), Bool.true_and]
  exact decide_eq_decide.2
    ⟨fun h => (Command.bit_injective b h).symm, fun h => by rw [h]⟩

/-- A word that carries one command alone is that command's row, whatever other bits it has. -/
theorem decodeStatusCmd_alone {b : CmdBits} {c : Command} {w : Word}
    (h : ∀ d : Command, d.present b w = decide (d = c)) : decodeStatusCmd b w = c.instr := by
  have hf : Command.all.filter (fun d => d.present b w) = [c] := by
    simp only [h]
    cases c with
    | clrSig n => fin_cases n <;> rfl
    | setSig n => fin_cases n <;> rfl
    | _ => rfl
  unfold decodeStatusCmd
  rw [hf]

/-! ## Bits, bytes and port words agree -/

theorem natOfBytes_bytesOfNat (n w : Nat) : natOfBytes (bytesOfNat n w) = w % 256 ^ n := by
  induction n generalizing w with
  | zero => simp [bytesOfNat, natOfBytes, Nat.mod_one]
  | succ n ih =>
    have h8 : (2 : Nat) ^ 8 = 256 := by decide
    rw [bytesOfNat, natOfBytes, ih, BitVec.toNat_ofNat, Nat.shiftRight_eq_div_pow, h8,
      Nat.pow_succ', Nat.mod_mul]

theorem bytesOfNat_length (n w : Nat) : (bytesOfNat n w).length = n := by
  induction n generalizing w with
  | zero => rfl
  | succ n ih => rw [bytesOfNat, List.length_cons, ih]

/-- The decoder of a table row's bits reads the same port word that `withFetchWord` places. -/
theorem decodeTableWord_eq {nbits : Nat} (h : nbits ≤ 104) (w : Nat) :
    decodeTableWord nbits w =
      (match decode Config.default (PortWord.ofNat (w % 2 ^ nbits)) with
       | .ok i => some i
       | .error _ => none) := by
  have hl : w % 2 ^ nbits < 256 ^ 13 := by
    have h1 := Nat.mod_lt w (Nat.two_pow_pos nbits)
    have h2 := Nat.pow_le_pow_right (n := 2) (by omega) h
    have h3 : (2 : Nat) ^ 104 = 256 ^ 13 := by norm_num
    omega
  unfold decodeTableWord decodeBytes portWordBytes
  rw [bytesOfNat_length, if_neg (by omega), List.take_of_length_le (by rw [bytesOfNat_length]),
    natOfBytes_bytesOfNat, Nat.mod_eq_of_lt hl]
  cases decode Config.default (PortWord.ofNat (w % 2 ^ nbits)) <;> rfl

end Sys2Proof
end

