-- ==== Sys2Proof/Laws/Memory.lean ====
section
/-! SUPPORT. The laws of the sparse storage behind both memories and the secondary bank: a read
after a write, what a write leaves alone, and that a write keeps the canonical form. -/

namespace Sys2Proof.Machine

section Cells
variable {β : Type} {d : β}

@[simp] theorem Cells.read_nil (a : Nat) : Cells.read d [] a = d := rfl

theorem Cells.read_cons (k : Nat) (v : β) (m : List (Nat × β)) (a : Nat) :
    Cells.read d ((k, v) :: m) a = if k = a then v else Cells.read d m a := rfl

/-- Below every listed address nothing is listed. -/
theorem Cells.read_eq_default {m : List (Nat × β)} {a : Nat} (h : ∀ c ∈ m, c.1 ≠ a) :
    Cells.read d m a = d := by
  induction m with
  | nil => rfl
  | cons c m ih =>
    obtain ⟨k, v⟩ := c
    rw [Cells.read_cons, if_neg (h (k, v) (by simp))]
    exact ih fun c hc => h c (by simp [hc])

variable [DecidableEq β]

theorem Cells.read_write_other {m : List (Nat × β)} {a a' : Nat} {b : β} (h : a' ≠ a) :
    Cells.read d (Cells.write d m a b) a' = Cells.read d m a' := by
  induction m with
  | nil => by_cases hb : b = d <;> simp [Cells.write, Cells.read_cons, hb, h.symm]
  | cons c m ih =>
    obtain ⟨k, v⟩ := c
    unfold Cells.write
    split
    · by_cases hb : b = d <;> simp [Cells.read_cons, hb, h.symm]
    · split
      · rename_i h2
        subst h2
        by_cases hb : b = d <;> simp [Cells.read_cons, hb, h.symm]
      · simp [Cells.read_cons, ih]

theorem Cells.read_write_same {m : List (Nat × β)} {a : Nat} {b : β}
    (hm : m.Pairwise (fun x y => x.1 < y.1)) : Cells.read d (Cells.write d m a b) a = b := by
  induction m with
  | nil => by_cases hb : b = d <;> simp [Cells.write, Cells.read_cons, hb]
  | cons c m ih =>
    obtain ⟨k, v⟩ := c
    rw [List.pairwise_cons] at hm
    have above : ∀ c ∈ m, k < c.1 := fun c hc => hm.1 c hc
    unfold Cells.write
    split
    · rename_i h1
      by_cases hb : b = d
      · rw [if_pos hb, hb]
        refine Cells.read_eq_default fun c hc => ?_
        rcases List.mem_cons.1 hc with rfl | hc
        · exact Nat.ne_of_gt h1
        · exact Nat.ne_of_gt (Nat.lt_trans h1 (above c hc))
      · simp [Cells.read_cons, hb]
    · split
      · rename_i h2
        subst h2
        by_cases hb : b = d
        · rw [if_pos hb, hb]
          exact Cells.read_eq_default fun c hc => Nat.ne_of_gt (above c hc)
        · simp [Cells.read_cons, hb]
      · rename_i h1 h2
        simp [Cells.read_cons, h2, ih hm.2]

theorem Cells.mem_write {m : List (Nat × β)} {a : Nat} {b : β} {c : Nat × β}
    (h : c ∈ Cells.write d m a b) : c ∈ m ∨ (c = (a, b) ∧ b ≠ d) := by
  induction m with
  | nil => by_cases hb : b = d <;> simp_all [Cells.write]
  | cons e m ih =>
    obtain ⟨k, v⟩ := e
    unfold Cells.write at h
    split at h
    · by_cases hb : b = d <;> simp_all
      tauto
    · split at h
      · by_cases hb : b = d <;> simp_all
        tauto
      · rcases List.mem_cons.1 h with rfl | h
        · simp
        · rcases ih h with h | h <;> simp [h]

theorem Cells.write_rising {m : List (Nat × β)} {a : Nat} {b : β}
    (hm : m.Pairwise (fun x y => x.1 < y.1)) :
    (Cells.write d m a b).Pairwise (fun x y => x.1 < y.1) := by
  induction m with
  | nil => by_cases hb : b = d <;> simp [Cells.write, hb]
  | cons e m ih =>
    obtain ⟨k, v⟩ := e
    have hk := (List.pairwise_cons.1 hm).1
    unfold Cells.write
    split
    · rename_i h1
      by_cases hb : b = d
      · simpa [hb] using hm
      · rw [if_neg hb, List.pairwise_cons]
        refine ⟨fun c hc => ?_, hm⟩
        rcases List.mem_cons.1 hc with rfl | hc
        · exact h1
        · exact Nat.lt_trans h1 (hk c hc)
    · split
      · rename_i h2
        subst h2
        by_cases hb : b = d
        · simpa [hb] using (List.pairwise_cons.1 hm).2
        · rw [if_neg hb, List.pairwise_cons]
          exact ⟨hk, (List.pairwise_cons.1 hm).2⟩
      · rename_i h1 h2
        rw [List.pairwise_cons]
        refine ⟨fun c hc => ?_, ih (List.pairwise_cons.1 hm).2⟩
        rcases Cells.mem_write hc with hc | ⟨rfl, _⟩
        · exact hk c hc
        · exact Nat.lt_of_le_of_ne (Nat.le_of_not_lt h1) h2

/-- A write keeps the canonical form. -/
theorem Cells.write_wf {m : List (Nat × β)} {a : Nat} {b : β} (hm : Cells.wf d m) :
    Cells.wf d (Cells.write d m a b) := by
  refine ⟨Cells.write_rising hm.1, fun c hc => ?_⟩
  rcases Cells.mem_write hc with hc | ⟨rfl, hb⟩
  · exact hm.2 c hc
  · exact hb

/-- A write below `n` keeps every listed address below `n`. -/
theorem Cells.write_below {n : Nat} {m : List (Nat × β)} {a : Nat} {b : β} (ha : a < n)
    (hm : Cells.below n m) : Cells.below n (Cells.write d m a b) := by
  intro c hc
  rcases Cells.mem_write hc with hc | ⟨rfl, _⟩
  · exact hm c hc
  · exact ha

omit [DecidableEq β] in
/-- Two memories in canonical form that read the same everywhere are the same data. -/
theorem Cells.ext {m m' : List (Nat × β)} (hm : Cells.wf d m) (hm' : Cells.wf d m')
    (h : ∀ a, Cells.read d m a = Cells.read d m' a) : m = m' := by
  have ne : ∀ {l : List (Nat × β)} {k : Nat} {v : β}, Cells.wf d ((k, v) :: l) →
      v ≠ d ∧ Cells.wf d l ∧ ∀ a, a ≤ k → Cells.read d l a = d := by
    intro l k v hl
    refine ⟨hl.2 (k, v) (by simp), ⟨(List.pairwise_cons.1 hl.1).2, fun c hc => hl.2 c (by simp [hc])⟩,
      fun a ha => Cells.read_eq_default fun c hc => ?_⟩
    exact Nat.ne_of_gt (Nat.lt_of_le_of_lt ha ((List.pairwise_cons.1 hl.1).1 c hc))
  induction m generalizing m' with
  | nil =>
    cases m' with
    | nil => rfl
    | cons c m' =>
      obtain ⟨k, v⟩ := c
      have := h k
      simp only [Cells.read_nil, Cells.read_cons, if_true] at this
      exact absurd this.symm (ne hm').1
  | cons c m ih =>
    obtain ⟨k, v⟩ := c
    cases m' with
    | nil =>
      have := h k
      simp only [Cells.read_nil, Cells.read_cons, if_true] at this
      exact absurd this (ne hm).1
    | cons c' m' =>
      obtain ⟨k', v'⟩ := c'
      obtain ⟨hv, hw, hlow⟩ := ne hm
      obtain ⟨hv', hw', hlow'⟩ := ne hm'
      have hkk : k = k' := by
        rcases Nat.lt_trichotomy k k' with hlt | heq | hgt
        · have := h k
          simp only [Cells.read_cons, if_true, if_neg (Nat.ne_of_gt hlt),
            hlow' k (Nat.le_of_lt hlt)] at this
          exact absurd this hv
        · exact heq
        · have := h k'
          simp only [Cells.read_cons, if_true, if_neg (Nat.ne_of_gt hgt),
            hlow k' (Nat.le_of_lt hgt)] at this
          exact absurd this.symm hv'
      subst hkk
      have hvv : v = v' := by simpa [Cells.read_cons] using h k
      subst hvv
      have hmm : m = m' := by
        refine ih hw hw' fun a => ?_
        by_cases ha : k = a
        · subst ha
          rw [hlow k (Nat.le_refl k), hlow' k (Nat.le_refl k)]
        · simpa [Cells.read_cons, ha] using h a
      rw [hmm]

end Cells

@[simp] theorem Memory.read_write_same {m : Memory} (hm : m.wf) (a : Nat) (b : Byte) :
    (m.write a b).read a = b := Cells.read_write_same hm.1

theorem Memory.read_write_other {m : Memory} {a a' : Nat} (b : Byte) (h : a' ≠ a) :
    (m.write a b).read a' = m.read a' := Cells.read_write_other h

theorem Memory.write_wf {m : Memory} (hm : m.wf) (a : Nat) (b : Byte) : (m.write a b).wf :=
  Cells.write_wf hm

theorem Memory.write_below {m : Memory} {n a : Nat} (b : Byte) (ha : a < n)
    (hm : Cells.below n m) : Cells.below n (m.write a b) := Cells.write_below ha hm

/-- Storing what is there already changes nothing. -/
theorem Memory.write_read {m : Memory} (hm : m.wf) (a : Nat) : m.write a (m.read a) = m := by
  refine Cells.ext (Memory.write_wf hm a _) hm fun a' => ?_
  by_cases h : a' = a
  · subst h
    exact Memory.read_write_same hm a' _
  · exact Memory.read_write_other _ h

theorem lmPut_wf {m : Memory} (hm : m.wf) (a : Nat) (b : Byte) : (lmPut m a b).wf :=
  Memory.write_wf hm _ b

theorem lmPut_below {m : Memory} (a : Nat) (b : Byte) (hm : Cells.below localMemSize m) :
    Cells.below localMemSize (lmPut m a b) :=
  Memory.write_below b (Nat.mod_lt _ (by decide)) hm

theorem mainMemSize_pos (c : Config) : 0 < c.mainMemSize := Nat.two_pow_pos _

theorem pcregsCount_pos (c : Config) : 0 < c.pcregsCount := Nat.two_pow_pos _

theorem physAddr_lt (c : Config) (a : Nat) : physAddr c a < c.mainMemSize :=
  Nat.mod_lt _ (mainMemSize_pos c)

theorem mainPut_wf {c : Config} {m : Memory} (hm : m.wf) (a : Nat) (b : Byte) :
    (mainPut c m a b).wf := Memory.write_wf hm _ b

theorem mainPut_below {c : Config} {m : Memory} (a : Nat) (b : Byte)
    (hm : Cells.below c.mainMemSize m) : Cells.below c.mainMemSize (mainPut c m a b) :=
  Memory.write_below b (physAddr_lt c a) hm

/-- The accessor sends two addresses to one physical byte only if they are the same address of the
main-memory address space: `BYTE_XOR` cannot be observed from inside the block (R64). -/
theorem physAddr_inj (c : Config) {a a' : Nat} (h : physAddr c a = physAddr c a') :
    a % c.mainMemSize = a' % c.mainMemSize := by
  unfold physAddr Config.mainMemSize at *
  rw [Nat.xor_mod_two_pow, Nat.xor_mod_two_pow, Nat.mod_mod, Nat.mod_mod] at h
  exact Nat.xor_left_injective h

theorem physAddr_mod (c : Config) (a : Nat) : physAddr c (a % c.mainMemSize) = physAddr c a := by
  unfold physAddr
  rw [Nat.mod_mod]

end Sys2Proof.Machine
end

