-- ==== Sys2Proof/Laws/State.lean ====
section
/-! SUPPORT. One lemma per named update of the state: the fields it writes, and all it leaves alone
(a conjunction, which simp uses field by field). Later proofs cite these and unfold no record
update. -/

namespace Sys2Proof.Machine

variable (s : State)

@[simp] theorem State.lmWrite_lm (a : Nat) (b : Byte) : (s.lmWrite a b).lm = lmPut s.lm a b := rfl

@[simp] theorem State.lmWrite_frame (a : Nat) (b : Byte) :
    (s.lmWrite a b).memAddr = s.memAddr ∧ (s.lmWrite a b).dramAddr = s.dramAddr ∧
    (s.lmWrite a b).rdLen = s.rdLen ∧ (s.lmWrite a b).wrLen = s.wrLen ∧
    (s.lmWrite a b).status = s.status ∧ (s.lmWrite a b).dmaFull = s.dmaFull ∧
    (s.lmWrite a b).dmaBusy = s.dmaBusy ∧ (s.lmWrite a b).semaphore = s.semaphore ∧
    (s.lmWrite a b).pc = s.pc ∧ (s.lmWrite a b).pcRegs = s.pcRegs ∧
    (s.lmWrite a b).taskLocked = s.taskLocked ∧ (s.lmWrite a b).spPending = s.spPending ∧
    (s.lmWrite a b).timeline = s.timeline ∧ (s.lmWrite a b).frozen = s.frozen ∧
    (s.lmWrite a b).fbProtected = s.fbProtected ∧ (s.lmWrite a b).rasterIntr = s.rasterIntr ∧
    (s.lmWrite a b).main = s.main ∧ (s.lmWrite a b).config = s.config ∧
    (s.lmWrite a b).rdata = s.rdata ∧ (s.lmWrite a b).calls = s.calls ∧
    (s.lmWrite a b).requests = s.requests ∧ (s.lmWrite a b).execScript = s.execScript ∧
    (s.lmWrite a b).execCount = s.execCount := by
  repeat' constructor

@[simp] theorem State.lmWriteWord_frame (a : Nat) (w : Word) :
    (s.lmWriteWord a w).memAddr = s.memAddr ∧ (s.lmWriteWord a w).dramAddr = s.dramAddr ∧
    (s.lmWriteWord a w).rdLen = s.rdLen ∧ (s.lmWriteWord a w).wrLen = s.wrLen ∧
    (s.lmWriteWord a w).status = s.status ∧ (s.lmWriteWord a w).dmaFull = s.dmaFull ∧
    (s.lmWriteWord a w).dmaBusy = s.dmaBusy ∧ (s.lmWriteWord a w).semaphore = s.semaphore ∧
    (s.lmWriteWord a w).pc = s.pc ∧ (s.lmWriteWord a w).pcRegs = s.pcRegs ∧
    (s.lmWriteWord a w).taskLocked = s.taskLocked ∧ (s.lmWriteWord a w).spPending = s.spPending ∧
    (s.lmWriteWord a w).timeline = s.timeline ∧ (s.lmWriteWord a w).frozen = s.frozen ∧
    (s.lmWriteWord a w).fbProtected = s.fbProtected ∧
    (s.lmWriteWord a w).rasterIntr = s.rasterIntr ∧ (s.lmWriteWord a w).main = s.main ∧
    (s.lmWriteWord a w).config = s.config ∧ (s.lmWriteWord a w).rdata = s.rdata ∧
    (s.lmWriteWord a w).calls = s.calls ∧ (s.lmWriteWord a w).requests = s.requests ∧
    (s.lmWriteWord a w).execScript = s.execScript ∧ (s.lmWriteWord a w).execCount = s.execCount := by
  repeat' constructor

@[simp] theorem State.mainWrite_main (a : Nat) (b : Byte) : (s.mainWrite a b).main = mainPut s.config s.main a b := rfl

@[simp] theorem State.mainWrite_frame (a : Nat) (b : Byte) :
    (s.mainWrite a b).lm = s.lm ∧ (s.mainWrite a b).memAddr = s.memAddr ∧
    (s.mainWrite a b).dramAddr = s.dramAddr ∧ (s.mainWrite a b).rdLen = s.rdLen ∧
    (s.mainWrite a b).wrLen = s.wrLen ∧ (s.mainWrite a b).status = s.status ∧
    (s.mainWrite a b).dmaFull = s.dmaFull ∧ (s.mainWrite a b).dmaBusy = s.dmaBusy ∧
    (s.mainWrite a b).semaphore = s.semaphore ∧ (s.mainWrite a b).pc = s.pc ∧
    (s.mainWrite a b).pcRegs = s.pcRegs ∧ (s.mainWrite a b).taskLocked = s.taskLocked ∧
    (s.mainWrite a b).spPending = s.spPending ∧ (s.mainWrite a b).timeline = s.timeline ∧
    (s.mainWrite a b).frozen = s.frozen ∧ (s.mainWrite a b).fbProtected = s.fbProtected ∧
    (s.mainWrite a b).rasterIntr = s.rasterIntr ∧ (s.mainWrite a b).config = s.config ∧
    (s.mainWrite a b).rdata = s.rdata ∧ (s.mainWrite a b).calls = s.calls ∧
    (s.mainWrite a b).requests = s.requests ∧ (s.mainWrite a b).execScript = s.execScript ∧
    (s.mainWrite a b).execCount = s.execCount := by
  repeat' constructor

@[simp] theorem State.answer_rdata (v : Word) : (s.answer v).rdata = v := rfl

@[simp] theorem State.answer_frame (v : Word) :
    (s.answer v).lm = s.lm ∧ (s.answer v).memAddr = s.memAddr ∧
    (s.answer v).dramAddr = s.dramAddr ∧ (s.answer v).rdLen = s.rdLen ∧
    (s.answer v).wrLen = s.wrLen ∧ (s.answer v).status = s.status ∧
    (s.answer v).dmaFull = s.dmaFull ∧ (s.answer v).dmaBusy = s.dmaBusy ∧
    (s.answer v).semaphore = s.semaphore ∧ (s.answer v).pc = s.pc ∧
    (s.answer v).pcRegs = s.pcRegs ∧ (s.answer v).taskLocked = s.taskLocked ∧
    (s.answer v).spPending = s.spPending ∧ (s.answer v).timeline = s.timeline ∧
    (s.answer v).frozen = s.frozen ∧ (s.answer v).fbProtected = s.fbProtected ∧
    (s.answer v).rasterIntr = s.rasterIntr ∧ (s.answer v).main = s.main ∧
    (s.answer v).config = s.config ∧ (s.answer v).calls = s.calls ∧
    (s.answer v).requests = s.requests ∧ (s.answer v).execScript = s.execScript ∧
    (s.answer v).execCount = s.execCount := by
  repeat' constructor

@[simp] theorem State.setFlag_status (f : Flag) : (s.setFlag f).status = setFlagIn s.config.flagBits f s.status := rfl

@[simp] theorem State.setFlag_frame (f : Flag) :
    (s.setFlag f).lm = s.lm ∧ (s.setFlag f).memAddr = s.memAddr ∧
    (s.setFlag f).dramAddr = s.dramAddr ∧ (s.setFlag f).rdLen = s.rdLen ∧
    (s.setFlag f).wrLen = s.wrLen ∧ (s.setFlag f).dmaFull = s.dmaFull ∧
    (s.setFlag f).dmaBusy = s.dmaBusy ∧ (s.setFlag f).semaphore = s.semaphore ∧
    (s.setFlag f).pc = s.pc ∧ (s.setFlag f).pcRegs = s.pcRegs ∧
    (s.setFlag f).taskLocked = s.taskLocked ∧ (s.setFlag f).spPending = s.spPending ∧
    (s.setFlag f).timeline = s.timeline ∧ (s.setFlag f).frozen = s.frozen ∧
    (s.setFlag f).fbProtected = s.fbProtected ∧ (s.setFlag f).rasterIntr = s.rasterIntr ∧
    (s.setFlag f).main = s.main ∧ (s.setFlag f).config = s.config ∧
    (s.setFlag f).rdata = s.rdata ∧ (s.setFlag f).calls = s.calls ∧
    (s.setFlag f).requests = s.requests ∧ (s.setFlag f).execScript = s.execScript ∧
    (s.setFlag f).execCount = s.execCount := by
  repeat' constructor

@[simp] theorem State.clearFlag_status (f : Flag) : (s.clearFlag f).status = clearFlagIn s.config.flagBits f s.status := rfl

@[simp] theorem State.clearFlag_frame (f : Flag) :
    (s.clearFlag f).lm = s.lm ∧ (s.clearFlag f).memAddr = s.memAddr ∧
    (s.clearFlag f).dramAddr = s.dramAddr ∧ (s.clearFlag f).rdLen = s.rdLen ∧
    (s.clearFlag f).wrLen = s.wrLen ∧ (s.clearFlag f).dmaFull = s.dmaFull ∧
    (s.clearFlag f).dmaBusy = s.dmaBusy ∧ (s.clearFlag f).semaphore = s.semaphore ∧
    (s.clearFlag f).pc = s.pc ∧ (s.clearFlag f).pcRegs = s.pcRegs ∧
    (s.clearFlag f).taskLocked = s.taskLocked ∧ (s.clearFlag f).spPending = s.spPending ∧
    (s.clearFlag f).timeline = s.timeline ∧ (s.clearFlag f).frozen = s.frozen ∧
    (s.clearFlag f).fbProtected = s.fbProtected ∧ (s.clearFlag f).rasterIntr = s.rasterIntr ∧
    (s.clearFlag f).main = s.main ∧ (s.clearFlag f).config = s.config ∧
    (s.clearFlag f).rdata = s.rdata ∧ (s.clearFlag f).calls = s.calls ∧
    (s.clearFlag f).requests = s.requests ∧ (s.clearFlag f).execScript = s.execScript ∧
    (s.clearFlag f).execCount = s.execCount := by
  repeat' constructor

@[simp] theorem State.record_calls (c : Call) : (s.record c).calls = s.calls ++ [c] := rfl

@[simp] theorem State.record_frame (c : Call) :
    (s.record c).lm = s.lm ∧ (s.record c).memAddr = s.memAddr ∧
    (s.record c).dramAddr = s.dramAddr ∧ (s.record c).rdLen = s.rdLen ∧
    (s.record c).wrLen = s.wrLen ∧ (s.record c).status = s.status ∧
    (s.record c).dmaFull = s.dmaFull ∧ (s.record c).dmaBusy = s.dmaBusy ∧
    (s.record c).semaphore = s.semaphore ∧ (s.record c).pc = s.pc ∧
    (s.record c).pcRegs = s.pcRegs ∧ (s.record c).taskLocked = s.taskLocked ∧
    (s.record c).spPending = s.spPending ∧ (s.record c).timeline = s.timeline ∧
    (s.record c).frozen = s.frozen ∧ (s.record c).fbProtected = s.fbProtected ∧
    (s.record c).rasterIntr = s.rasterIntr ∧ (s.record c).main = s.main ∧
    (s.record c).config = s.config ∧ (s.record c).rdata = s.rdata ∧
    (s.record c).requests = s.requests ∧ (s.record c).execScript = s.execScript ∧
    (s.record c).execCount = s.execCount := by
  repeat' constructor

@[simp] theorem State.raiseInterrupt_calls : (s.raiseInterrupt).calls = s.calls ++ [.raiseInterrupt .sp] := rfl

@[simp] theorem State.raiseInterrupt_spPending : (s.raiseInterrupt).spPending = true := rfl

@[simp] theorem State.raiseInterrupt_frame :
    (s.raiseInterrupt).lm = s.lm ∧ (s.raiseInterrupt).memAddr = s.memAddr ∧
    (s.raiseInterrupt).dramAddr = s.dramAddr ∧ (s.raiseInterrupt).rdLen = s.rdLen ∧
    (s.raiseInterrupt).wrLen = s.wrLen ∧ (s.raiseInterrupt).status = s.status ∧
    (s.raiseInterrupt).dmaFull = s.dmaFull ∧ (s.raiseInterrupt).dmaBusy = s.dmaBusy ∧
    (s.raiseInterrupt).semaphore = s.semaphore ∧ (s.raiseInterrupt).pc = s.pc ∧
    (s.raiseInterrupt).pcRegs = s.pcRegs ∧ (s.raiseInterrupt).taskLocked = s.taskLocked ∧
    (s.raiseInterrupt).timeline = s.timeline ∧ (s.raiseInterrupt).frozen = s.frozen ∧
    (s.raiseInterrupt).fbProtected = s.fbProtected ∧
    (s.raiseInterrupt).rasterIntr = s.rasterIntr ∧ (s.raiseInterrupt).main = s.main ∧
    (s.raiseInterrupt).config = s.config ∧ (s.raiseInterrupt).rdata = s.rdata ∧
    (s.raiseInterrupt).requests = s.requests ∧ (s.raiseInterrupt).execScript = s.execScript ∧
    (s.raiseInterrupt).execCount = s.execCount := by
  repeat' constructor

@[simp] theorem State.schedulePendingInterrupt_calls : (s.schedulePendingInterrupt).calls = s.calls ++ [.schedulePendingInterrupt .sp] := rfl

@[simp] theorem State.schedulePendingInterrupt_spPending : (s.schedulePendingInterrupt).spPending = true := rfl

@[simp] theorem State.schedulePendingInterrupt_frame :
    (s.schedulePendingInterrupt).lm = s.lm ∧ (s.schedulePendingInterrupt).memAddr = s.memAddr ∧
    (s.schedulePendingInterrupt).dramAddr = s.dramAddr ∧
    (s.schedulePendingInterrupt).rdLen = s.rdLen ∧ (s.schedulePendingInterrupt).wrLen = s.wrLen ∧
    (s.schedulePendingInterrupt).status = s.status ∧
    (s.schedulePendingInterrupt).dmaFull = s.dmaFull ∧
    (s.schedulePendingInterrupt).dmaBusy = s.dmaBusy ∧
    (s.schedulePendingInterrupt).semaphore = s.semaphore ∧
    (s.schedulePendingInterrupt).pc = s.pc ∧ (s.schedulePendingInterrupt).pcRegs = s.pcRegs ∧
    (s.schedulePendingInterrupt).taskLocked = s.taskLocked ∧
    (s.schedulePendingInterrupt).timeline = s.timeline ∧
    (s.schedulePendingInterrupt).frozen = s.frozen ∧
    (s.schedulePendingInterrupt).fbProtected = s.fbProtected ∧
    (s.schedulePendingInterrupt).rasterIntr = s.rasterIntr ∧
    (s.schedulePendingInterrupt).main = s.main ∧ (s.schedulePendingInterrupt).config = s.config ∧
    (s.schedulePendingInterrupt).rdata = s.rdata ∧
    (s.schedulePendingInterrupt).requests = s.requests ∧
    (s.schedulePendingInterrupt).execScript = s.execScript ∧
    (s.schedulePendingInterrupt).execCount = s.execCount := by
  repeat' constructor

@[simp] theorem State.clearPendingInterrupt_calls : (s.clearPendingInterrupt).calls = s.calls ++ [.clearPendingInterrupt .sp] := rfl

@[simp] theorem State.clearPendingInterrupt_spPending : (s.clearPendingInterrupt).spPending = false := rfl

@[simp] theorem State.clearPendingInterrupt_frame :
    (s.clearPendingInterrupt).lm = s.lm ∧ (s.clearPendingInterrupt).memAddr = s.memAddr ∧
    (s.clearPendingInterrupt).dramAddr = s.dramAddr ∧ (s.clearPendingInterrupt).rdLen = s.rdLen ∧
    (s.clearPendingInterrupt).wrLen = s.wrLen ∧ (s.clearPendingInterrupt).status = s.status ∧
    (s.clearPendingInterrupt).dmaFull = s.dmaFull ∧
    (s.clearPendingInterrupt).dmaBusy = s.dmaBusy ∧
    (s.clearPendingInterrupt).semaphore = s.semaphore ∧ (s.clearPendingInterrupt).pc = s.pc ∧
    (s.clearPendingInterrupt).pcRegs = s.pcRegs ∧
    (s.clearPendingInterrupt).taskLocked = s.taskLocked ∧
    (s.clearPendingInterrupt).timeline = s.timeline ∧
    (s.clearPendingInterrupt).frozen = s.frozen ∧
    (s.clearPendingInterrupt).fbProtected = s.fbProtected ∧
    (s.clearPendingInterrupt).rasterIntr = s.rasterIntr ∧
    (s.clearPendingInterrupt).main = s.main ∧ (s.clearPendingInterrupt).config = s.config ∧
    (s.clearPendingInterrupt).rdata = s.rdata ∧ (s.clearPendingInterrupt).requests = s.requests ∧
    (s.clearPendingInterrupt).execScript = s.execScript ∧
    (s.clearPendingInterrupt).execCount = s.execCount := by
  repeat' constructor

@[simp] theorem State.scheduleEvent_calls (k : EventKind) (d : Nat) : (s.scheduleEvent k d).calls = s.calls ++ [.scheduleEvent k d] := rfl

@[simp] theorem State.scheduleEvent_timeline (k : EventKind) (d : Nat) : (s.scheduleEvent k d).timeline = s.timeline ++ [⟨k, d⟩] := rfl

@[simp] theorem State.scheduleEvent_frame (k : EventKind) (d : Nat) :
    (s.scheduleEvent k d).lm = s.lm ∧ (s.scheduleEvent k d).memAddr = s.memAddr ∧
    (s.scheduleEvent k d).dramAddr = s.dramAddr ∧ (s.scheduleEvent k d).rdLen = s.rdLen ∧
    (s.scheduleEvent k d).wrLen = s.wrLen ∧ (s.scheduleEvent k d).status = s.status ∧
    (s.scheduleEvent k d).dmaFull = s.dmaFull ∧ (s.scheduleEvent k d).dmaBusy = s.dmaBusy ∧
    (s.scheduleEvent k d).semaphore = s.semaphore ∧ (s.scheduleEvent k d).pc = s.pc ∧
    (s.scheduleEvent k d).pcRegs = s.pcRegs ∧ (s.scheduleEvent k d).taskLocked = s.taskLocked ∧
    (s.scheduleEvent k d).spPending = s.spPending ∧ (s.scheduleEvent k d).frozen = s.frozen ∧
    (s.scheduleEvent k d).fbProtected = s.fbProtected ∧
    (s.scheduleEvent k d).rasterIntr = s.rasterIntr ∧ (s.scheduleEvent k d).main = s.main ∧
    (s.scheduleEvent k d).config = s.config ∧ (s.scheduleEvent k d).rdata = s.rdata ∧
    (s.scheduleEvent k d).requests = s.requests ∧
    (s.scheduleEvent k d).execScript = s.execScript ∧
    (s.scheduleEvent k d).execCount = s.execCount := by
  repeat' constructor

@[simp] theorem State.fireEvent_timeline (k : EventKind) : (s.fireEvent k).timeline = s.timeline.eraseP (fun e => e.kind == k) := rfl

@[simp] theorem State.fireEvent_frame (k : EventKind) :
    (s.fireEvent k).lm = s.lm ∧ (s.fireEvent k).memAddr = s.memAddr ∧
    (s.fireEvent k).dramAddr = s.dramAddr ∧ (s.fireEvent k).rdLen = s.rdLen ∧
    (s.fireEvent k).wrLen = s.wrLen ∧ (s.fireEvent k).status = s.status ∧
    (s.fireEvent k).dmaFull = s.dmaFull ∧ (s.fireEvent k).dmaBusy = s.dmaBusy ∧
    (s.fireEvent k).semaphore = s.semaphore ∧ (s.fireEvent k).pc = s.pc ∧
    (s.fireEvent k).pcRegs = s.pcRegs ∧ (s.fireEvent k).taskLocked = s.taskLocked ∧
    (s.fireEvent k).spPending = s.spPending ∧ (s.fireEvent k).frozen = s.frozen ∧
    (s.fireEvent k).fbProtected = s.fbProtected ∧ (s.fireEvent k).rasterIntr = s.rasterIntr ∧
    (s.fireEvent k).main = s.main ∧ (s.fireEvent k).config = s.config ∧
    (s.fireEvent k).rdata = s.rdata ∧ (s.fireEvent k).calls = s.calls ∧
    (s.fireEvent k).requests = s.requests ∧ (s.fireEvent k).execScript = s.execScript ∧
    (s.fireEvent k).execCount = s.execCount := by
  repeat' constructor

@[simp] theorem State.unprotectFramebuffers_calls : (s.unprotectFramebuffers).calls = s.calls ++ [.unprotectFramebuffers] := rfl

@[simp] theorem State.unprotectFramebuffers_fbProtected : (s.unprotectFramebuffers).fbProtected = false := rfl

@[simp] theorem State.unprotectFramebuffers_frame :
    (s.unprotectFramebuffers).lm = s.lm ∧ (s.unprotectFramebuffers).memAddr = s.memAddr ∧
    (s.unprotectFramebuffers).dramAddr = s.dramAddr ∧ (s.unprotectFramebuffers).rdLen = s.rdLen ∧
    (s.unprotectFramebuffers).wrLen = s.wrLen ∧ (s.unprotectFramebuffers).status = s.status ∧
    (s.unprotectFramebuffers).dmaFull = s.dmaFull ∧
    (s.unprotectFramebuffers).dmaBusy = s.dmaBusy ∧
    (s.unprotectFramebuffers).semaphore = s.semaphore ∧ (s.unprotectFramebuffers).pc = s.pc ∧
    (s.unprotectFramebuffers).pcRegs = s.pcRegs ∧
    (s.unprotectFramebuffers).taskLocked = s.taskLocked ∧
    (s.unprotectFramebuffers).spPending = s.spPending ∧
    (s.unprotectFramebuffers).timeline = s.timeline ∧
    (s.unprotectFramebuffers).frozen = s.frozen ∧
    (s.unprotectFramebuffers).rasterIntr = s.rasterIntr ∧
    (s.unprotectFramebuffers).main = s.main ∧ (s.unprotectFramebuffers).config = s.config ∧
    (s.unprotectFramebuffers).rdata = s.rdata ∧ (s.unprotectFramebuffers).requests = s.requests ∧
    (s.unprotectFramebuffers).execScript = s.execScript ∧
    (s.unprotectFramebuffers).execCount = s.execCount := by
  repeat' constructor

@[simp] theorem State.protectFramebuffers_calls : (s.protectFramebuffers).calls = s.calls ++ [.protectFramebuffers] := rfl

@[simp] theorem State.protectFramebuffers_fbProtected : (s.protectFramebuffers).fbProtected = true := rfl

@[simp] theorem State.protectFramebuffers_frame :
    (s.protectFramebuffers).lm = s.lm ∧ (s.protectFramebuffers).memAddr = s.memAddr ∧
    (s.protectFramebuffers).dramAddr = s.dramAddr ∧ (s.protectFramebuffers).rdLen = s.rdLen ∧
    (s.protectFramebuffers).wrLen = s.wrLen ∧ (s.protectFramebuffers).status = s.status ∧
    (s.protectFramebuffers).dmaFull = s.dmaFull ∧ (s.protectFramebuffers).dmaBusy = s.dmaBusy ∧
    (s.protectFramebuffers).semaphore = s.semaphore ∧ (s.protectFramebuffers).pc = s.pc ∧
    (s.protectFramebuffers).pcRegs = s.pcRegs ∧
    (s.protectFramebuffers).taskLocked = s.taskLocked ∧
    (s.protectFramebuffers).spPending = s.spPending ∧
    (s.protectFramebuffers).timeline = s.timeline ∧ (s.protectFramebuffers).frozen = s.frozen ∧
    (s.protectFramebuffers).rasterIntr = s.rasterIntr ∧ (s.protectFramebuffers).main = s.main ∧
    (s.protectFramebuffers).config = s.config ∧ (s.protectFramebuffers).rdata = s.rdata ∧
    (s.protectFramebuffers).requests = s.requests ∧
    (s.protectFramebuffers).execScript = s.execScript ∧
    (s.protectFramebuffers).execCount = s.execCount := by
  repeat' constructor

@[simp] theorem State.newFrame_calls : (s.newFrame).calls = s.calls ++ [.newFrame] := rfl

@[simp] theorem State.newFrame_frame :
    (s.newFrame).lm = s.lm ∧ (s.newFrame).memAddr = s.memAddr ∧
    (s.newFrame).dramAddr = s.dramAddr ∧ (s.newFrame).rdLen = s.rdLen ∧
    (s.newFrame).wrLen = s.wrLen ∧ (s.newFrame).status = s.status ∧
    (s.newFrame).dmaFull = s.dmaFull ∧ (s.newFrame).dmaBusy = s.dmaBusy ∧
    (s.newFrame).semaphore = s.semaphore ∧ (s.newFrame).pc = s.pc ∧
    (s.newFrame).pcRegs = s.pcRegs ∧ (s.newFrame).taskLocked = s.taskLocked ∧
    (s.newFrame).spPending = s.spPending ∧ (s.newFrame).timeline = s.timeline ∧
    (s.newFrame).frozen = s.frozen ∧ (s.newFrame).fbProtected = s.fbProtected ∧
    (s.newFrame).rasterIntr = s.rasterIntr ∧ (s.newFrame).main = s.main ∧
    (s.newFrame).config = s.config ∧ (s.newFrame).rdata = s.rdata ∧
    (s.newFrame).requests = s.requests ∧ (s.newFrame).execScript = s.execScript ∧
    (s.newFrame).execCount = s.execCount := by
  repeat' constructor

@[simp] theorem State.setCtrl_frame (r : CtrlReg) (v : Word) :
    (s.setCtrl r v).lm = s.lm ∧ (s.setCtrl r v).pc = s.pc ∧ (s.setCtrl r v).pcRegs = s.pcRegs ∧
    (s.setCtrl r v).taskLocked = s.taskLocked ∧ (s.setCtrl r v).spPending = s.spPending ∧
    (s.setCtrl r v).timeline = s.timeline ∧ (s.setCtrl r v).frozen = s.frozen ∧
    (s.setCtrl r v).fbProtected = s.fbProtected ∧ (s.setCtrl r v).rasterIntr = s.rasterIntr ∧
    (s.setCtrl r v).main = s.main ∧ (s.setCtrl r v).config = s.config ∧
    (s.setCtrl r v).rdata = s.rdata ∧ (s.setCtrl r v).calls = s.calls ∧
    (s.setCtrl r v).requests = s.requests ∧ (s.setCtrl r v).execScript = s.execScript ∧
    (s.setCtrl r v).execCount = s.execCount := by
  cases r <;> repeat' constructor

@[simp] theorem State.maskCtrl_frame (r : CtrlReg) (v m : Word) :
    (s.maskCtrl r v m).lm = s.lm ∧ (s.maskCtrl r v m).pc = s.pc ∧
    (s.maskCtrl r v m).pcRegs = s.pcRegs ∧ (s.maskCtrl r v m).taskLocked = s.taskLocked ∧
    (s.maskCtrl r v m).spPending = s.spPending ∧ (s.maskCtrl r v m).timeline = s.timeline ∧
    (s.maskCtrl r v m).frozen = s.frozen ∧ (s.maskCtrl r v m).fbProtected = s.fbProtected ∧
    (s.maskCtrl r v m).rasterIntr = s.rasterIntr ∧ (s.maskCtrl r v m).main = s.main ∧
    (s.maskCtrl r v m).config = s.config ∧ (s.maskCtrl r v m).rdata = s.rdata ∧
    (s.maskCtrl r v m).calls = s.calls ∧ (s.maskCtrl r v m).requests = s.requests ∧
    (s.maskCtrl r v m).execScript = s.execScript ∧ (s.maskCtrl r v m).execCount = s.execCount := State.setCtrl_frame s r _

@[simp] theorem State.setPr_frame (k : Nat) (v : Word) :
    (s.setPr k v).lm = s.lm ∧ (s.setPr k v).memAddr = s.memAddr ∧
    (s.setPr k v).dramAddr = s.dramAddr ∧ (s.setPr k v).rdLen = s.rdLen ∧
    (s.setPr k v).wrLen = s.wrLen ∧ (s.setPr k v).status = s.status ∧
    (s.setPr k v).dmaFull = s.dmaFull ∧ (s.setPr k v).dmaBusy = s.dmaBusy ∧
    (s.setPr k v).semaphore = s.semaphore ∧ (s.setPr k v).taskLocked = s.taskLocked ∧
    (s.setPr k v).spPending = s.spPending ∧ (s.setPr k v).timeline = s.timeline ∧
    (s.setPr k v).frozen = s.frozen ∧ (s.setPr k v).fbProtected = s.fbProtected ∧
    (s.setPr k v).rasterIntr = s.rasterIntr ∧ (s.setPr k v).main = s.main ∧
    (s.setPr k v).config = s.config ∧ (s.setPr k v).rdata = s.rdata ∧
    (s.setPr k v).calls = s.calls ∧ (s.setPr k v).requests = s.requests ∧
    (s.setPr k v).execScript = s.execScript ∧ (s.setPr k v).execCount = s.execCount := by
  unfold State.setPr; split <;> repeat' constructor

@[simp] theorem State.intrSetCall_frame :
    (s.intrSetCall).lm = s.lm ∧ (s.intrSetCall).memAddr = s.memAddr ∧
    (s.intrSetCall).dramAddr = s.dramAddr ∧ (s.intrSetCall).rdLen = s.rdLen ∧
    (s.intrSetCall).wrLen = s.wrLen ∧ (s.intrSetCall).status = s.status ∧
    (s.intrSetCall).dmaFull = s.dmaFull ∧ (s.intrSetCall).dmaBusy = s.dmaBusy ∧
    (s.intrSetCall).semaphore = s.semaphore ∧ (s.intrSetCall).pc = s.pc ∧
    (s.intrSetCall).pcRegs = s.pcRegs ∧ (s.intrSetCall).taskLocked = s.taskLocked ∧
    (s.intrSetCall).timeline = s.timeline ∧ (s.intrSetCall).frozen = s.frozen ∧
    (s.intrSetCall).fbProtected = s.fbProtected ∧ (s.intrSetCall).rasterIntr = s.rasterIntr ∧
    (s.intrSetCall).main = s.main ∧ (s.intrSetCall).config = s.config ∧
    (s.intrSetCall).rdata = s.rdata ∧ (s.intrSetCall).requests = s.requests ∧
    (s.intrSetCall).execScript = s.execScript ∧ (s.intrSetCall).execCount = s.execCount := by
  unfold State.intrSetCall; split <;> repeat' constructor

@[simp] theorem State.displayEvent_frame :
    (s.displayEvent).lm = s.lm ∧ (s.displayEvent).memAddr = s.memAddr ∧
    (s.displayEvent).dramAddr = s.dramAddr ∧ (s.displayEvent).rdLen = s.rdLen ∧
    (s.displayEvent).wrLen = s.wrLen ∧ (s.displayEvent).status = s.status ∧
    (s.displayEvent).dmaFull = s.dmaFull ∧ (s.displayEvent).dmaBusy = s.dmaBusy ∧
    (s.displayEvent).semaphore = s.semaphore ∧ (s.displayEvent).pc = s.pc ∧
    (s.displayEvent).pcRegs = s.pcRegs ∧ (s.displayEvent).taskLocked = s.taskLocked ∧
    (s.displayEvent).spPending = s.spPending ∧ (s.displayEvent).frozen = s.frozen ∧
    (s.displayEvent).fbProtected = s.fbProtected ∧ (s.displayEvent).main = s.main ∧
    (s.displayEvent).config = s.config ∧ (s.displayEvent).rdata = s.rdata ∧
    (s.displayEvent).requests = s.requests ∧ (s.displayEvent).execScript = s.execScript ∧
    (s.displayEvent).execCount = s.execCount := by
  unfold State.displayEvent; dsimp only; split <;> repeat' constructor

@[simp] theorem State.resetBlock_lm : (s.resetBlock).lm = State.reset.lm := rfl

@[simp] theorem State.resetBlock_memAddr : (s.resetBlock).memAddr = State.reset.memAddr := rfl

@[simp] theorem State.resetBlock_dramAddr : (s.resetBlock).dramAddr = State.reset.dramAddr := rfl

@[simp] theorem State.resetBlock_rdLen : (s.resetBlock).rdLen = State.reset.rdLen := rfl

@[simp] theorem State.resetBlock_wrLen : (s.resetBlock).wrLen = State.reset.wrLen := rfl

@[simp] theorem State.resetBlock_status : (s.resetBlock).status = flagMask s.config.flagBits .halt := rfl

@[simp] theorem State.resetBlock_dmaFull : (s.resetBlock).dmaFull = State.reset.dmaFull := rfl

@[simp] theorem State.resetBlock_dmaBusy : (s.resetBlock).dmaBusy = State.reset.dmaBusy := rfl

@[simp] theorem State.resetBlock_semaphore : (s.resetBlock).semaphore = State.reset.semaphore := rfl

@[simp] theorem State.resetBlock_pc : (s.resetBlock).pc = State.reset.pc := rfl

@[simp] theorem State.resetBlock_pcRegs : (s.resetBlock).pcRegs = State.reset.pcRegs := rfl

@[simp] theorem State.resetBlock_taskLocked : (s.resetBlock).taskLocked = State.reset.taskLocked := rfl

@[simp] theorem State.resetBlock_frame :
    (s.resetBlock).spPending = s.spPending ∧ (s.resetBlock).timeline = s.timeline ∧
    (s.resetBlock).frozen = s.frozen ∧ (s.resetBlock).fbProtected = s.fbProtected ∧
    (s.resetBlock).rasterIntr = s.rasterIntr ∧ (s.resetBlock).main = s.main ∧
    (s.resetBlock).config = s.config ∧ (s.resetBlock).rdata = s.rdata ∧
    (s.resetBlock).calls = s.calls ∧ (s.resetBlock).requests = s.requests ∧
    (s.resetBlock).execScript = s.execScript ∧ (s.resetBlock).execCount = s.execCount := by
  repeat' constructor

/-- What a control register reads after one was written. -/
@[simp] theorem State.ctrl_setCtrl (r r' : CtrlReg) (v : Word) :
    (s.setCtrl r v).ctrl r' = if r = r' then v else s.ctrl r' := by
  cases r <;> cases r' <;> rfl

@[simp] theorem State.ctrl_maskCtrl (r r' : CtrlReg) (v m : Word) :
    (s.maskCtrl r v m).ctrl r' = if r = r' then maskedWrite (s.ctrl r) v m else s.ctrl r' :=
  State.ctrl_setCtrl s r r' _

end Sys2Proof.Machine
end

