-- ==== Sys2Proof/Laws/Ops.lean ====
section
/-! SUPPORT. One lemma for each shared operation that says what it can do: reads after writes
through the accessors, the executor call, the masked run, the post-run step, the gating. Later
proofs cite these and unfold no operation. -/

namespace Sys2Proof.Machine

/-! ## Local memory, main memory, secondary bank -/

theorem State.lmRead_eq (s : State) (a : Nat) : s.lmRead a = s.lm.read (a % localMemSize) := rfl

theorem State.lmRead_lmWrite_same {s : State} (h : s.lm.wf) (a : Nat) (b : Byte) :
    (s.lmWrite a b).lmRead a = b := Memory.read_write_same h _ b

theorem State.lmRead_lmWrite_other (s : State) {a a' : Nat} (b : Byte)
    (h : a' % localMemSize ≠ a % localMemSize) : (s.lmWrite a b).lmRead a' = s.lmRead a' :=
  Memory.read_write_other b h

theorem State.mainRead_mainWrite_same {s : State} (h : s.main.wf) (a : Nat) (b : Byte) :
    (s.mainWrite a b).mainRead a = b := Memory.read_write_same h _ b

theorem State.mainRead_mainWrite_other (s : State) {a a' : Nat} (b : Byte)
    (h : a' % s.config.mainMemSize ≠ a % s.config.mainMemSize) :
    (s.mainWrite a b).mainRead a' = s.mainRead a' :=
  Memory.read_write_other b fun e => h (physAddr_inj s.config e)

theorem State.pr_setPr_same {s : State} (h : Cells.wf 0#32 s.pcRegs) (k : Nat) (v : Word) :
    (s.setPr k v).pr k = v := by
  unfold State.setPr State.pr State.prIndex
  by_cases hk : k % s.config.pcregsCount = 0
  · simp [hk]
  · simp [hk, Cells.read_write_same h.1]

theorem State.pr_setPr_other (s : State) {k j : Nat} (v : Word)
    (h : j % s.config.pcregsCount ≠ k % s.config.pcregsCount) :
    (s.setPr k v).pr j = s.pr j := by
  unfold State.setPr State.pr State.prIndex
  by_cases hk : k % s.config.pcregsCount = 0 <;> by_cases hj : j % s.config.pcregsCount = 0
  · omega
  · simp [hk, hj]
  · simp [hk, hj]
  · simp [hk, hj, Cells.read_write_other h]

/-- A word is its own four bytes, in the order that composed them (R61). -/
theorem wordOfBytes_byteOfWord (o : ByteOrder) (w : Word) :
    wordOfBytes o (byteOfWord o w 0) (byteOfWord o w 1) (byteOfWord o w 2) (byteOfWord o w 3) = w := by
  apply BitVec.eq_of_getLsbD_eq
  intro i hi
  cases o <;>
    simp only [wordOfBytes, byteOfWord, BitVec.getLsbD_append, BitVec.getLsbD_extractLsb']
  all_goals
    rcases Nat.lt_or_ge i 8 with h1 | h1
    · simp [h1]
    · rcases Nat.lt_or_ge i 16 with h2 | h2
      · have e1 : ¬ i < 8 := by omega
        have e2 : i - 8 < 8 := by omega
        simp [e1, e2, show 8 + (i - 8) = i by omega]
      · rcases Nat.lt_or_ge i 24 with h3 | h3
        · have e1 : ¬ i < 8 := by omega
          have e2 : ¬ i - 8 < 8 := by omega
          have e3 : i - 8 - 8 < 8 := by omega
          simp [e1, e2, e3, show 16 + (i - 8 - 8) = i by omega]
        · have e1 : ¬ i < 8 := by omega
          have e2 : ¬ i - 8 < 8 := by omega
          have e3 : ¬ i - 8 - 8 < 8 := by omega
          have e4 : i - 8 - 8 - 8 < 8 := by omega
          simp [e1, e2, e3, e4, show 24 + (i - 8 - 8 - 8) = i by omega]

/-- Each byte of the word stored at `a` is read back at its own address (R61). -/
theorem State.lmRead_lmWriteWord_same {s : State} (h : s.lm.wf) (a : Nat) (w : Word) {i : Nat}
    (hi : i < 4) : (s.lmWriteWord a w).lmRead (a + i) = byteOfWord s.config.lmByteOrder w i := by
  have h0 : (s.lmWrite a (byteOfWord s.config.lmByteOrder w 0)).lm.wf := lmPut_wf h _ _
  have h1 : ((s.lmWrite a (byteOfWord s.config.lmByteOrder w 0)).lmWrite (a + 1)
      (byteOfWord s.config.lmByteOrder w 1)).lm.wf := lmPut_wf h0 _ _
  have h2 : (((s.lmWrite a (byteOfWord s.config.lmByteOrder w 0)).lmWrite (a + 1)
      (byteOfWord s.config.lmByteOrder w 1)).lmWrite (a + 2)
      (byteOfWord s.config.lmByteOrder w 2)).lm.wf := lmPut_wf h1 _ _
  have ne : ∀ {i j : Nat}, i < j → j < 4 → (a + i) % localMemSize ≠ (a + j) % localMemSize := by
    intro i j hij hj
    unfold localMemSize
    omega
  unfold State.lmWriteWord
  match i, hi with
  | 0, _ =>
    rw [State.lmRead_lmWrite_other _ _ (ne (by omega) (by omega)),
      State.lmRead_lmWrite_other _ _ (ne (by omega) (by omega)),
      State.lmRead_lmWrite_other _ _ (ne (by omega) (by omega))]
    exact State.lmRead_lmWrite_same h a _
  | 1, _ =>
    rw [State.lmRead_lmWrite_other _ _ (ne (by omega) (by omega)),
      State.lmRead_lmWrite_other _ _ (ne (by omega) (by omega))]
    exact State.lmRead_lmWrite_same h0 _ _
  | 2, _ =>
    rw [State.lmRead_lmWrite_other _ _ (ne (by omega) (by omega))]
    exact State.lmRead_lmWrite_same h1 _ _
  | 3, _ => exact State.lmRead_lmWrite_same h2 _ _

theorem State.lmWord_lmWriteWord {s : State} (h : s.lm.wf) (a : Nat) (w : Word) :
    (s.lmWriteWord a w).lmWord a = w := by
  unfold State.lmWord
  rw [show (s.lmWriteWord a w).lmRead a = _ from
      State.lmRead_lmWriteWord_same h a w (i := 0) (by omega),
    State.lmRead_lmWriteWord_same h a w (i := 1) (by omega),
    State.lmRead_lmWriteWord_same h a w (i := 2) (by omega),
    State.lmRead_lmWriteWord_same h a w (i := 3) (by omega)]
  simpa using wordOfBytes_byteOfWord s.config.lmByteOrder w

/-- A word store leaves every byte but its four alone. -/
theorem State.lmRead_lmWriteWord_other (s : State) {a a' : Nat} (w : Word)
    (h : ∀ i, i < 4 → a' % localMemSize ≠ (a + i) % localMemSize) :
    (s.lmWriteWord a w).lmRead a' = s.lmRead a' := by
  unfold State.lmWriteWord
  rw [State.lmRead_lmWrite_other _ _ (h 3 (by omega)),
    State.lmRead_lmWrite_other _ _ (h 2 (by omega)),
    State.lmRead_lmWrite_other _ _ (h 1 (by omega)),
    State.lmRead_lmWrite_other _ _ (by simpa using h 0 (by omega))]

/-! ## The masked write and the flags, bit by bit -/

theorem maskedWrite_getLsbD (old v m : Word) {i : Nat} (hi : i < 32) :
    (maskedWrite old v m).getLsbD i = if m.getLsbD i then v.getLsbD i else old.getLsbD i := by
  unfold maskedWrite
  rw [BitVec.getLsbD_or, BitVec.getLsbD_and, BitVec.getLsbD_and, BitVec.getLsbD_not]
  cases h : m.getLsbD i <;> simp [hi, -BitVec.getLsbD_eq_getElem]

/-- Under the full mask the new word is stored whole (R120). -/
theorem maskedWrite_full (old v : Word) : maskedWrite old v 0xFFFFFFFF#32 = v := by
  apply BitVec.eq_of_getLsbD_eq
  intro i hi
  have h : (BitVec.allOnes 32).getLsbD i = true := by
    rw [BitVec.getLsbD_allOnes, decide_eq_true hi]
  exact (maskedWrite_getLsbD old v (BitVec.allOnes 32) hi).trans (if_pos h)

theorem flagBit_lt (b : FlagBits) (f : Flag) : flagBit b f < 32 := by
  cases f <;> exact Fin.isLt _

/-- The flags in the order of the table of R27. -/
def Flag.all : List Flag :=
  [.halt, .broke, .sstep, .intrOnBreak, .sig 0, .sig 1, .sig 2, .sig 3, .sig 4, .sig 5, .sig 6,
    .sig 7]

theorem Flag.mem_all (f : Flag) : f ∈ Flag.all := by
  cases f with
  | sig n => fin_cases n <;> simp [Flag.all]
  | _ => simp [Flag.all]

/-- Two flags never share a bit (D4). -/
theorem flagBit_injective (b : FlagBits) {f g : Flag} (h : flagBit b f = flagBit b g) : f = g := by
  have hd : (Flag.all.map (flagBit b)).Nodup := by
    have := b.distinct.map (f := Fin.val) Fin.val_injective
    simpa [toList_eight, Flag.all, flagBit] using this
  exact List.inj_on_of_nodup_map hd f.mem_all g.mem_all h

theorem flagMask_getLsbD (b : FlagBits) (f : Flag) {i : Nat} (hi : i < 32) :
    (flagMask b f).getLsbD i = decide (i = flagBit b f) := by
  rw [flagMask, BitVec.getLsbD_ofNat, Nat.testBit_two_pow]
  simp [hi, eq_comm]

theorem setFlagIn_getLsbD (b : FlagBits) (f : Flag) (st : Word) {i : Nat} (hi : i < 32) :
    (setFlagIn b f st).getLsbD i = if i = flagBit b f then true else st.getLsbD i := by
  rw [setFlagIn, BitVec.getLsbD_or, flagMask_getLsbD b f hi]
  by_cases h : i = flagBit b f <;> simp [h]

theorem clearFlagIn_getLsbD (b : FlagBits) (f : Flag) (st : Word) {i : Nat} (hi : i < 32) :
    (clearFlagIn b f st).getLsbD i = if i = flagBit b f then false else st.getLsbD i := by
  rw [clearFlagIn, BitVec.getLsbD_and, BitVec.getLsbD_not, flagMask_getLsbD b f hi]
  by_cases h : i = flagBit b f <;> simp [h, hi]

/-- A bit of STATUS after the clear pass: it stays unless a present command clears its flag. -/
theorem clearPass_getLsbD (p : Config) (w st : Word) {i : Nat} (hi : i < 32) :
    (clearPass p w st).getLsbD i = (st.getLsbD i && !(Command.all.any fun c =>
      c.present p.cmdBits w && (clearedBy c).any fun f => flagBit p.flagBits f == i)) := by
  unfold clearPass
  generalize Command.all = cs
  induction cs generalizing st with
  | nil => simp
  | cons c cs ih =>
    rw [List.foldl_cons, ih, List.any_cons]
    unfold clearStep
    cases clearedBy c with
    | none => simp
    | some f =>
      cases hp : c.present p.cmdBits w
      · simp
      · dsimp only
        rw [if_pos rfl, clearFlagIn_getLsbD _ f st hi]
        by_cases h : i = flagBit p.flagBits f
        · simp [h]
        · have h' : (flagBit p.flagBits f == i) = false := beq_false_of_ne (Ne.symm h)
          simp [h, h']

/-- A bit of STATUS after the set pass: it is set if a present command sets its flag. -/
theorem setPass_getLsbD (p : Config) (w st : Word) {i : Nat} (hi : i < 32) :
    (setPass p w st).getLsbD i = (st.getLsbD i || Command.all.any fun c =>
      c.present p.cmdBits w && (setBy c).any fun f => flagBit p.flagBits f == i) := by
  unfold setPass
  generalize Command.all = cs
  induction cs generalizing st with
  | nil => simp
  | cons c cs ih =>
    rw [List.foldl_cons, ih, List.any_cons]
    unfold setStep
    cases setBy c with
    | none => simp
    | some f =>
      cases hp : c.present p.cmdBits w
      · simp
      · dsimp only
        rw [if_pos rfl, setFlagIn_getLsbD _ f st hi]
        by_cases h : i = flagBit p.flagBits f
        · simp [h]
        · have h' : (flagBit p.flagBits f == i) = false := beq_false_of_ne (Ne.symm h)
          simp [h, h']

/-- A flag after both passes: set if its set command is present, else clear if its clear command is,
else as it was (R188). -/
theorem passes_flag (p : Config) (w st : Word) (f : Flag) :
    (setPass p w (clearPass p w st)).getLsbD (flagBit p.flagBits f) =
      ((Command.all.any fun c => decide (setBy c = some f) && c.present p.cmdBits w) ||
        (st.getLsbD (flagBit p.flagBits f) &&
          !(Command.all.any fun c => decide (clearedBy c = some f) && c.present p.cmdBits w))) := by
  have key : ∀ (by' : Command → Option Flag), (Command.all.any fun c =>
      c.present p.cmdBits w && (by' c).any fun g => flagBit p.flagBits g == flagBit p.flagBits f) =
      (Command.all.any fun c => decide (by' c = some f) && c.present p.cmdBits w) := by
    intro by'
    congr 1
    funext c
    rw [Bool.and_comm]
    congr 1
    cases by' c with
    | none => rfl
    | some g =>
      by_cases h : g = f
      · simp [h]
      · have : flagBit p.flagBits g ≠ flagBit p.flagBits f :=
          fun e => h (flagBit_injective p.flagBits e)
        simp [h, this]
  rw [setPass_getLsbD _ _ _ (flagBit_lt _ f), clearPass_getLsbD _ _ _ (flagBit_lt _ f), key, key,
    Bool.or_comm]

/-- A bit that holds no flag is as it was after both passes (R27). -/
theorem passes_other (p : Config) (w st : Word) {i : Nat} (h : ∀ f, flagBit p.flagBits f ≠ i) :
    (setPass p w (clearPass p w st)).getLsbD i = st.getLsbD i := by
  by_cases hi : i < 32
  · have hb : ∀ f, (flagBit p.flagBits f == i) = false := fun f => beq_false_of_ne (h f)
    have hn : ∀ g : Command → Option Flag, (Command.all.any fun c =>
        c.present p.cmdBits w && (g c).any fun f => flagBit p.flagBits f == i) = false := by
      intro g
      refine List.any_eq_false.2 fun c _ => ?_
      cases g c <;> simp [h]
    rw [setPass_getLsbD _ _ _ hi, clearPass_getLsbD _ _ _ hi, hn, hn, Bool.not_false, Bool.and_true,
      Bool.or_false]
  · rw [BitVec.getLsbD_of_ge _ _ (by omega), BitVec.getLsbD_of_ge _ _ (by omega)]

theorem State.isRunning_iff (s : State) : s.isRunning = true ↔
    s.status.getLsbD s.config.flagBits.halt = false ∧
      s.status.getLsbD s.config.flagBits.broke = false := by
  simp only [State.isRunning, running, testFlag, flagBit, Bool.and_eq_true, Bool.not_eq_true']

/-! ## The executor call -/

/-- What no change of an executor touches. -/
theorem State.applyExec_frame (s : State) (e : ExecEdit) :
    (s.applyExec e).config = s.config ∧ (s.applyExec e).taskLocked = s.taskLocked ∧
    (s.applyExec e).rdata = s.rdata ∧ (s.applyExec e).calls = s.calls ∧
    (s.applyExec e).requests = s.requests ∧ (s.applyExec e).execScript = s.execScript ∧
    (s.applyExec e).execCount = s.execCount := by
  rcases e with e | e | k | ⟨r, v⟩ | ⟨k, v⟩ | ⟨a, b⟩
  · cases e <;> simp [State.applyExec, State.applyEnv]
  all_goals simp [State.applyExec]

theorem State.applyExecs_frame (s : State) (es : List ExecEdit) :
    (s.applyExecs es).config = s.config ∧ (s.applyExecs es).taskLocked = s.taskLocked ∧
    (s.applyExecs es).rdata = s.rdata ∧ (s.applyExecs es).calls = s.calls ∧
    (s.applyExecs es).requests = s.requests ∧ (s.applyExecs es).execScript = s.execScript ∧
    (s.applyExecs es).execCount = s.execCount := by
  unfold State.applyExecs
  induction es generalizing s with
  | nil => simp
  | cons e es ih =>
    obtain ⟨h1, h2, h3, h4, h5, h6, h7⟩ := State.applyExec_frame s e
    simpa [h1, h2, h3, h4, h5, h6, h7] using ih (s.applyExec e)

/-- What an executor call records, counts and leaves alone, whatever its answer. -/
theorem State.execCall_frame (s : State) (k : ExecKind) :
    (s.execCall k).config = s.config ∧ (s.execCall k).taskLocked = s.taskLocked ∧
    (s.execCall k).rdata = s.rdata ∧ (s.execCall k).calls = s.calls ++ [s.execCallRecord k] ∧
    (s.execCall k).requests = s.requests ∧ (s.execCall k).execScript = s.execScript.tail ∧
    (s.execCall k).execCount = s.execCount + 1 := by
  obtain ⟨h1, h2, h3, h4, h5, _, _⟩ :=
    State.applyExecs_frame (s.record (s.execCallRecord k)) (s.execAnswer k)
  simp [State.execCall, h1, h2, h3, h4, h5]

/-- The changes of an answer do not look at the script or the count. -/
theorem State.applyExecs_script (s : State) (es : List ExecEdit) (x : List (List ExecEdit)) (n : Nat) :
    ({ s with execScript := x, execCount := n } : State).applyExecs es =
      { s.applyExecs es with execScript := x, execCount := n } := by
  unfold State.applyExecs
  induction es generalizing s with
  | nil => rfl
  | cons e es ih =>
    rw [List.foldl_cons, List.foldl_cons, ← ih]
    congr 1
    rcases e with e | e | k | ⟨r, v⟩ | ⟨k, v⟩ | ⟨a, b⟩
    · cases e <;> rfl
    · rfl
    · rfl
    · cases r <;> rfl
    · by_cases hk : k % s.config.pcregsCount = 0 <;>
        simp only [State.applyExec, State.setPr, State.prIndex, hk, if_true, if_false]
    · rfl

/-- A call with one more change in its answer makes that change last. -/
theorem State.execCall_snoc {s : State} {es : List ExecEdit} {e : ExecEdit}
    {rest : List (List ExecEdit)} (h : s.execScript = (es ++ [e]) :: rest) (k : ExecKind) :
    s.execCall k = (({ s with execScript := es :: rest } : State).execCall k).applyExec e := by
  have h1 := State.applyExecs_script (s.record (s.execCallRecord k)) es (es :: rest) s.execCount
  have h2 := State.applyExecs_script ((s.record (s.execCallRecord k)).applyExecs es) [e] rest
    (s.execCount + 1)
  have ha : s.execAnswer k = es ++ [e] := by unfold State.execAnswer; rw [h]
  unfold State.execCall
  rw [ha, h, State.applyExecs, List.foldl_append]
  refine h2.symm.trans ?_
  show State.applyExec _ e = State.applyExec _ e
  congr 1
  exact (congrArg (fun u : State => { u with execScript := rest, execCount := s.execCount + 1 })
    h1).symm

/-! ## Dispatch -/

theorem State.runMasked_eq (s : State) (k : ExecKind) :
    s.runMasked k =
      { ({ s with pc := s.pc &&& s.config.pcMask } : State).execCall k with
        pc := maskedWrite s.pc
          (({ s with pc := s.pc &&& s.config.pcMask } : State).execCall k).pc s.config.pcMask } := by
  unfold State.runMasked maskedWrite
  simp only [BitVec.or_comm]

/-- The two outcomes of the post-run step. -/
theorem State.postRun_cases (s : State) :
    (s.isRunning = true ∧ s.postRun = { s with
        taskLocked := true
        timeline := s.timeline ++ [⟨.spInt, s.config.spCompletionDelay⟩]
        calls := s.calls ++ [.scheduleEvent .spInt s.config.spCompletionDelay] }) ∨
    (s.isRunning = false ∧ s.postRun = { s with taskLocked := false }) := by
  unfold State.postRun
  cases h : s.isRunning
  · right; simp
  · left; exact ⟨rfl, rfl⟩

/-- The outcomes of the gating: the write ends, or it dispatches. -/
theorem State.gate_cases (s : State) (c : Bool) :
    (s.gate c = s ∧ ((s.taskLocked = true ∧ s.eventPending .spInt = true) ∨
      (c = false ∧ s.taskLocked = false) ∨ s.isRunning = false)) ∨
    (s.gate c = s.dispatch ∧ s.isRunning = true ∧
      (s.taskLocked = false ∨ s.eventPending .spInt = false) ∧
      (c = true ∨ s.taskLocked = true)) := by
  unfold State.gate
  cases s.taskLocked <;> cases s.eventPending .spInt <;> cases c <;> cases s.isRunning <;>
    simp

/-- The paths `Dispatch()` can take. -/
theorem State.dispatch_cases (s : State) :
    (s.dispatch = s.dispatchGraphics ∧ s.taskTag = 1) ∨
    (s.dispatch = s.dispatchAudio ∧ s.taskTag = 2) ∨
    (s.dispatch = s.dispatchOther ∧ s.taskTag ≠ 1 ∧ s.taskTag ≠ 2) := by
  unfold State.dispatch
  by_cases h1 : s.taskTag = 1
  · left; exact ⟨if_pos h1, h1⟩
  · by_cases h2 : s.taskTag = 2
    · right; left; rw [if_neg h1]; exact ⟨if_pos h2, h2⟩
    · right; right; rw [if_neg h1, if_neg h2]; exact ⟨rfl, h1, h2⟩

/-- The outcomes of the graphics path: deferred, or run after the freeze check. -/
theorem State.dispatchGraphics_cases (s : State) :
    (s.config.skipFreezeCheck = false ∧ s.frozen = true ∧
      s.dispatchGraphics = s.record (.isFrozen true)) ∨
    (s.config.skipFreezeCheck = true ∧ s.dispatchGraphics = s.runGraphics) ∨
    (s.config.skipFreezeCheck = false ∧ s.frozen = false ∧
      s.dispatchGraphics = (s.record (.isFrozen false)).runGraphics) := by
  unfold State.dispatchGraphics
  cases s.config.skipFreezeCheck <;> cases s.frozen <;> simp

end Sys2Proof.Machine
end

