-- ==== Sys2Proof/Laws/Dispatch.lean ====
section
/-! SUPPORT. What a dispatch, the gating and the effects of a STATUS write can do, said once
(43_dispatch.md R242 to R247, 41_status_commands.md R160, R189 to R191). -/

namespace Sys2Proof.Machine

/-- What the masked executor call records, counts and leaves alone, whatever the executor does; the
bits of the program counter outside `PC_MASK` come back (R245). -/
theorem State.runMasked_frame (s : State) (k : ExecKind) :
    (s.runMasked k).config = s.config ∧ (s.runMasked k).taskLocked = s.taskLocked ∧
    (s.runMasked k).rdata = s.rdata ∧
    (s.runMasked k).calls =
      s.calls ++ [({ s with pc := s.pc &&& s.config.pcMask } : State).execCallRecord k] ∧
    (s.runMasked k).requests = s.requests ∧ (s.runMasked k).execScript = s.execScript.tail ∧
    (s.runMasked k).execCount = s.execCount + 1 ∧
    ∀ n, n < 32 → s.config.pcMask.getLsbD n = false →
      (s.runMasked k).pc.getLsbD n = s.pc.getLsbD n := by
  rw [State.runMasked_eq]
  obtain ⟨h1, h2, h3, h4, h5, h6, h7⟩ :=
    State.execCall_frame { s with pc := s.pc &&& s.config.pcMask } k
  refine ⟨h1, h2, h3, h4, h5, h6, h7, fun n hn hm => ?_⟩
  dsimp only
  rw [maskedWrite_getLsbD _ _ _ hn, hm]
  rfl

/-- The graphics path after the freeze check, in terms of the executor call inside it (R242). -/
theorem State.runGraphics_eq (s ran : State)
    (hr : ran = ({ s with
      fbProtected := false
      calls := s.calls ++ [.unprotectFramebuffers]
      pc := s.pc &&& s.config.pcMask } : State).execCall .primary) :
    s.runGraphics = ({ ran with
      pc := maskedWrite s.pc ran.pc s.config.pcMask
      rasterIntr := false
      fbProtected := true
      timeline := ran.timeline ++
        (if ran.rasterIntr then [Event.mk .dpInt s.config.dpInterruptDelay] else [])
      calls := ran.calls ++ [.newFrame, .consumeInterruptFlag ran.rasterIntr] ++
        (if ran.rasterIntr then [.scheduleEvent .dpInt s.config.dpInterruptDelay] else []) ++
        [.protectFramebuffers] } : State).postRun := by
  have hc : ran.config = s.config := by rw [hr]; exact (State.execCall_frame _ _).1
  unfold State.runGraphics
  rw [State.runMasked_eq]
  have hr' : ({ s.unprotectFramebuffers with
      pc := s.unprotectFramebuffers.pc &&& s.unprotectFramebuffers.config.pcMask } :
        State).execCall .primary = ran := by rw [hr]; rfl
  rw [hr']
  congr 1
  unfold State.newFrame State.displayEvent State.protectFramebuffers
  cases h : ran.rasterIntr <;>
    simp [h, hc, State.record, State.scheduleEvent, State.unprotectFramebuffers]

/-- The three calls that name the `SP` source. -/
def Call.isIntr (c : Call) : Prop :=
  c = .raiseInterrupt .sp ∨ c = .clearPendingInterrupt .sp ∨ c = .schedulePendingInterrupt .sp

/-- Everything a call of `Dispatch()`, or a gating that may make one, can do from `s` to `t`. -/
structure DispatchFrame (s t : State) : Prop where
  config : t.config = s.config
  rdata : t.rdata = s.rdata
  requests : t.requests = s.requests
  highPc : ∀ n, n < 32 → s.config.pcMask.getLsbD n = false → t.pc.getLsbD n = s.pc.getLsbD n
  /-- What it adds to the trace: at most one executor call, at most one event of each kind, and
  nothing for the interrupt controller. -/
  calls : ∃ new, t.calls = s.calls ++ new ∧ callCount Call.isRun new ≤ 1 ∧
    callCount (Call.schedules .spInt) new ≤ 1 ∧ callCount (Call.schedules .dpInt) new ≤ 1 ∧
    (∀ c ∈ new, ¬ c.isIntr) ∧
    (t.execCount = s.execCount → callCount Call.isRun new = 0) ∧
    (t.execCount ≠ s.execCount → callCount Call.isRun new = 1 ∧
      callCount (Call.schedules .spInt) new =
        if running s.config.flagBits t.status then 1 else 0)
  /-- Without an executor call it did nothing, or asked the one question of a deferral (R250). -/
  deferred : t.execCount = s.execCount → t = s ∨ t = s.record (.isFrozen true)
  /-- With one it went through the post-run step (R247). -/
  ran : t.execCount ≠ s.execCount → t.execCount = s.execCount + 1 ∧
    t.execScript = s.execScript.tail ∧ t.taskLocked = running s.config.flagBits t.status ∧
    (running s.config.flagBits t.status = true →
      t.timeline.getLast? = some ⟨.spInt, s.config.spCompletionDelay⟩)

theorem DispatchFrame.refl (s : State) : DispatchFrame s s :=
  ⟨rfl, rfl, rfl, fun _ _ _ => rfl, ⟨[], by simp [callCount]⟩, fun _ => .inl rfl,
    fun h => absurd rfl h⟩

/-- A path that made one executor call and ends in the post-run step. -/
theorem DispatchFrame.of_postRun {s r : State} {new : List Call} (hc : r.config = s.config)
    (hd : r.rdata = s.rdata) (hq : r.requests = s.requests)
    (hp : ∀ n, n < 32 → s.config.pcMask.getLsbD n = false → r.pc.getLsbD n = s.pc.getLsbD n)
    (hn : r.execCount = s.execCount + 1) (hs : r.execScript = s.execScript.tail)
    (hcalls : r.calls = s.calls ++ new)
    (h1 : callCount Call.isRun new = 1) (h2 : callCount (Call.schedules .spInt) new = 0)
    (h3 : callCount (Call.schedules .dpInt) new ≤ 1) (h4 : ∀ c ∈ new, ¬ c.isIntr) :
    DispatchFrame s r.postRun := by
  unfold callCount at h1 h2 h3
  rcases State.postRun_cases r with ⟨hr, e⟩ | ⟨hr, e⟩ <;> rw [e] <;>
    rw [State.isRunning, hc] at hr
  · refine ⟨hc, hd, hq, hp, ⟨new ++ [.scheduleEvent .spInt r.config.spCompletionDelay], ?_⟩,
      fun h => ?_, fun _ => ?_⟩
    · dsimp only
      unfold callCount
      rw [hcalls, hr]
      simp only [List.filter_append, List.length_append, h1, h2]
      refine ⟨List.append_assoc _ _ _, by simp [Call.isRun], by simp [Call.schedules],
        by simp [Call.schedules]; omega, fun c hc => ?_, fun h => ?_, fun _ => ?_⟩
      · rcases List.mem_append.1 hc with hc | hc
        · exact h4 c hc
        · rw [List.mem_singleton.1 hc]
          simp [Call.isIntr]
      · omega
      · simp [Call.isRun, Call.schedules]
    · dsimp only at h
      omega
    · dsimp only
      rw [hr, hc]
      exact ⟨hn, hs, rfl, fun _ => by simp⟩
  · refine ⟨hc, hd, hq, hp, ⟨new, ?_⟩, fun h => ?_, fun _ => ?_⟩
    · dsimp only
      unfold callCount
      rw [hr]
      refine ⟨hcalls, by omega, by omega, h3, h4, fun h => by omega, fun _ => ⟨h1, h2⟩⟩
    · dsimp only at h
      omega
    · dsimp only
      rw [hr]
      exact ⟨hn, hs, rfl, fun h => absurd h Bool.false_ne_true⟩

theorem State.runMasked_postRun_frame (s : State) (k : ExecKind) :
    DispatchFrame s (s.runMasked k).postRun := by
  obtain ⟨h1, _, h3, h4, h5, h6, h7, h8⟩ := s.runMasked_frame k
  refine DispatchFrame.of_postRun h1 h3 h5 h8 h7 h6 h4 ?_ ?_ ?_ ?_ <;> cases k <;>
    simp [callCount, List.filter_cons, State.execCallRecord, Call.isRun, Call.schedules,
      Call.isIntr]

theorem State.runGraphics_frame {s s0 : State} {b : Bool}
    (h : s0 = s ∨ s0 = s.record (.isFrozen b)) : DispatchFrame s s0.runGraphics := by
  obtain ⟨pre, e1, e2, e3, e4, e5, e6, e7, e8⟩ : ∃ pre, s0.calls = s.calls ++ pre ∧
      (pre = [] ∨ pre = [.isFrozen b]) ∧ s0.config = s.config ∧ s0.rdata = s.rdata ∧
      s0.requests = s.requests ∧ s0.execCount = s.execCount ∧ s0.pc = s.pc ∧
      s0.execScript = s.execScript := by
    rcases h with rfl | rfl
    · exact ⟨[], by simp⟩
    · exact ⟨[.isFrozen b], by simp⟩
  obtain ⟨h1, _, h3, h4, h5, h6, h7⟩ := State.execCall_frame ({ s0 with
    fbProtected := false
    calls := s0.calls ++ [.unprotectFramebuffers]
    pc := s0.pc &&& s0.config.pcMask } : State) .primary
  rw [State.runGraphics_eq s0 _ rfl]
  revert h1 h3 h4 h5 h6 h7
  generalize State.execCall _ _ = ran
  intro h1 h3 h4 h5 h6 h7
  dsimp only at h1 h3 h4 h5 h6 h7
  refine DispatchFrame.of_postRun (h1.trans e3) (h3.trans e4) (h5.trans e5) ?_ (h7.trans (by rw [e6]))
    (h6.trans (by rw [e8])) (new := pre ++ [.unprotectFramebuffers] ++
      [State.execCallRecord { s0 with
        fbProtected := false
        calls := s0.calls ++ [.unprotectFramebuffers]
        pc := s0.pc &&& s0.config.pcMask } .primary] ++
      [.newFrame, .consumeInterruptFlag ran.rasterIntr] ++
      (if ran.rasterIntr then [.scheduleEvent .dpInt s0.config.dpInterruptDelay] else []) ++
      [.protectFramebuffers]) ?_ ?_ ?_ ?_ ?_
  · intro n hn hm
    dsimp only
    rw [maskedWrite_getLsbD _ _ _ hn, e3, hm, e7]
    rfl
  · dsimp only
    rw [h4, e1]
    simp only [List.append_assoc]
  all_goals
    rcases e2 with rfl | rfl <;> cases ran.rasterIntr <;>
      simp [callCount, List.filter_cons, State.execCallRecord, Call.isRun, Call.schedules,
        Call.isIntr]

theorem State.dispatchGraphics_frame (s : State) : DispatchFrame s s.dispatchGraphics := by
  rcases s.dispatchGraphics_cases with ⟨_, _, e⟩ | ⟨_, e⟩ | ⟨_, _, e⟩ <;> rw [e]
  · exact ⟨rfl, rfl, rfl, fun _ _ _ => rfl, ⟨[.isFrozen true], rfl, by decide, by decide,
      by decide, by simp [Call.isIntr], fun _ => by decide, fun h => absurd rfl h⟩,
      fun _ => .inr rfl, fun h => absurd rfl h⟩
  · exact State.runGraphics_frame (b := false) (.inl rfl)
  · exact State.runGraphics_frame (.inr rfl)

theorem State.dispatchAudio_frame (s : State) : DispatchFrame s s.dispatchAudio :=
  s.runMasked_postRun_frame _

theorem State.dispatchOther_frame (s : State) : DispatchFrame s s.dispatchOther :=
  s.runMasked_postRun_frame _

theorem State.dispatch_frame (s : State) : DispatchFrame s s.dispatch := by
  rcases s.dispatch_cases with ⟨e, _⟩ | ⟨e, _⟩ | ⟨e, _⟩ <;> rw [e]
  · exact s.dispatchGraphics_frame
  · exact s.dispatchAudio_frame
  · exact s.dispatchOther_frame

theorem State.gate_frame (s : State) (c : Bool) : DispatchFrame s (s.gate c) := by
  rcases s.gate_cases c with ⟨e, _⟩ | ⟨e, _⟩ <;> rw [e]
  · exact .refl s
  · exact s.dispatch_frame

/-- The effects of a word delivered to STATUS, before the gating (R160, R165, R166, R172). -/
theorem State.statusEffects_eq (s : State) (w : Word) :
    s.statusEffects w = { s with
      status := setPass s.config w (clearPass s.config w s.status)
      spPending := (w.getLsbD (s.config.cmdBits.setSig.get 0) && s.config.audioSignalEnabled) ||
        w.getLsbD s.config.cmdBits.setIntr || (s.spPending && !w.getLsbD s.config.cmdBits.clrIntr)
      calls := s.calls ++
        (if w.getLsbD s.config.cmdBits.clrIntr then [.clearPendingInterrupt .sp] else []) ++
        (if w.getLsbD s.config.cmdBits.setIntr then
          [if s.config.intrSetCall = .raise then .raiseInterrupt .sp
           else .schedulePendingInterrupt .sp] else []) ++
        (if w.getLsbD (s.config.cmdBits.setSig.get 0) && s.config.audioSignalEnabled then
          [.raiseInterrupt .sp] else []) } := by
  unfold State.statusEffects State.statusSideEffects State.audioShortcut State.intrSetCall
  simp only [Command.present, Command.bit]
  generalize setPass s.config w (clearPass s.config w s.status) = u
  by_cases h4 : w.getLsbD s.config.cmdBits.clrIntr = true <;>
    by_cases h5 : w.getLsbD s.config.cmdBits.setIntr = true <;>
    by_cases h11 : w.getLsbD (s.config.cmdBits.setSig.get 0) = true <;>
    simp only [h4, h5, h11, if_true, if_false, Bool.false_eq_true] <;>
    cases ha : s.config.audioSignalEnabled <;> cases hi : s.config.intrSetCall <;>
    simp [ha, hi, State.clearPendingInterrupt, State.schedulePendingInterrupt,
      State.raiseInterrupt, State.record]

theorem State.eventPending_iff (s : State) (k : EventKind) :
    s.eventPending k = true ↔ ∃ e ∈ s.timeline, e.kind = k := by
  simp [State.eventPending]

end Sys2Proof.Machine
end

