-- ==== Sys2Proof/Laws/Dma.lean ====
section
/-! SUPPORT. What the engine's nested loop does to the memory it writes (42_dma.md R215 to R217):
bytes it does not reach stay, and the last byte stored at an address stays there. `key` is the place
in the destination memory of a destination address. -/

namespace Sys2Proof.Machine

variable {rd : Nat → Byte} {put : Memory → Nat → Byte → Memory} {key : Nat → Nat}

theorem copyRow_succ (mem : Memory) (n src dst : Nat) :
    copyRow rd put (n + 1) src dst mem =
      copyRow rd put n (src + 1) (dst + 1) (put mem dst (rd src)) := rfl

theorem copyRows_succ (mem : Memory) (len ss ds n src dst : Nat) :
    copyRows rd put len ss ds (n + 1) src dst mem =
      copyRows rd put len ss ds n (src + len + ss) (dst + len + ds)
        (copyRow rd put len src dst mem) := rfl

theorem copyRow_wf (hput : ∀ m a b, put m a b = Memory.write m (key a) b) {mem : Memory}
    (h : mem.wf) (n src dst : Nat) : (copyRow rd put n src dst mem).wf := by
  induction n generalizing src dst mem with
  | zero => exact h
  | succ n ih => exact ih (hput mem dst _ ▸ Memory.write_wf h _ _) (src + 1) (dst + 1)

theorem copyRow_below (hput : ∀ m a b, put m a b = Memory.write m (key a) b) {size : Nat}
    (hkey : ∀ a, key a < size) {mem : Memory} (h : Cells.below size mem) (n src dst : Nat) :
    Cells.below size (copyRow rd put n src dst mem) := by
  induction n generalizing src dst mem with
  | zero => exact h
  | succ n ih =>
    exact ih (hput mem dst _ ▸ Memory.write_below _ (hkey dst) h) (src + 1) (dst + 1)

theorem copyRow_read_other (hput : ∀ m a b, put m a b = Memory.write m (key a) b) {mem : Memory}
    {n src dst x : Nat} (h : ∀ i, i < n → key (dst + i) ≠ x) :
    (copyRow rd put n src dst mem).read x = mem.read x := by
  induction n generalizing src dst mem with
  | zero => rfl
  | succ n ih =>
    have step : (copyRow rd put (n + 1) src dst mem).read x = (put mem dst (rd src)).read x :=
      ih fun i hi => by simpa [Nat.add_assoc, Nat.add_comm 1 i] using h (i + 1) (by omega)
    rw [step, hput]
    exact Memory.read_write_other _ (by simpa using (h 0 (by omega)).symm)

theorem copyRow_read_last (hput : ∀ m a b, put m a b = Memory.write m (key a) b) {mem : Memory}
    (hm : mem.wf) {n src dst i : Nat} (hi : i < n)
    (h : ∀ i', i < i' → i' < n → key (dst + i') ≠ key (dst + i)) :
    (copyRow rd put n src dst mem).read (key (dst + i)) = rd (src + i) := by
  induction n generalizing src dst mem i with
  | zero => omega
  | succ n ih =>
    have hm' : (put mem dst (rd src)).wf := hput mem dst _ ▸ Memory.write_wf hm _ _
    cases i with
    | zero =>
      have step : (copyRow rd put (n + 1) src dst mem).read (key (dst + 0)) =
          (put mem dst (rd src)).read (key (dst + 0)) := by
        rw [copyRow_succ]
        refine copyRow_read_other hput fun i hi => ?_
        simpa [Nat.add_assoc, Nat.add_comm 1 i] using h (i + 1) (by omega) (by omega)
      rw [step, hput]
      exact Memory.read_write_same hm _ _
    | succ i =>
      have := ih (src := src + 1) (dst := dst + 1) (i := i) hm' (by omega) fun i' h1 h2 => by
        have := h (i' + 1) (by omega) (by omega)
        simpa [Nat.add_assoc, Nat.add_comm 1] using this
      rw [copyRow_succ]
      simpa [Nat.add_assoc, Nat.add_comm 1] using this

theorem copyRows_wf (hput : ∀ m a b, put m a b = Memory.write m (key a) b) {mem : Memory}
    (h : mem.wf) (len ss ds n src dst : Nat) :
    (copyRows rd put len ss ds n src dst mem).wf := by
  induction n generalizing src dst mem with
  | zero => exact h
  | succ n ih => exact ih (copyRow_wf hput h len src dst) _ _

theorem copyRows_below (hput : ∀ m a b, put m a b = Memory.write m (key a) b) {size : Nat}
    (hkey : ∀ a, key a < size) {mem : Memory} (h : Cells.below size mem)
    (len ss ds n src dst : Nat) : Cells.below size (copyRows rd put len ss ds n src dst mem) := by
  induction n generalizing src dst mem with
  | zero => exact h
  | succ n ih => exact ih (copyRow_below hput hkey h len src dst) _ _

/-- A place that no byte of the transfer reaches keeps its byte. -/
theorem copyRows_read_other (hput : ∀ m a b, put m a b = Memory.write m (key a) b) {mem : Memory}
    {len ss ds n src dst x : Nat}
    (h : ∀ j i, j < n → i < len → key (dst + j * (len + ds) + i) ≠ x) :
    (copyRows rd put len ss ds n src dst mem).read x = mem.read x := by
  induction n generalizing src dst mem with
  | zero => rfl
  | succ n ih =>
    have rest : (copyRows rd put len ss ds (n + 1) src dst mem).read x =
        (copyRow rd put len src dst mem).read x := by
      refine ih fun j i hj hi => ?_
      have := h (j + 1) i (by omega) hi
      rwa [Nat.add_mul, Nat.one_mul,
        show dst + (j * (len + ds) + (len + ds)) + i = dst + len + ds + j * (len + ds) + i by omega]
        at this
    rw [rest]
    exact copyRow_read_other hput fun i hi => by simpa using h 0 i (by omega) hi

/-- Byte `i` of row `j` stays, if no later byte of the transfer lands on its place. -/
theorem copyRows_read_last (hput : ∀ m a b, put m a b = Memory.write m (key a) b) {mem : Memory}
    (hm : mem.wf) {len ss ds n src dst j i : Nat} (hj : j < n) (hi : i < len)
    (h : ∀ j' i', j' < n → i' < len → (j < j' ∨ (j = j' ∧ i < i')) →
      key (dst + j' * (len + ds) + i') ≠ key (dst + j * (len + ds) + i)) :
    (copyRows rd put len ss ds n src dst mem).read (key (dst + j * (len + ds) + i)) =
      rd (src + j * (len + ss) + i) := by
  induction n generalizing src dst mem j with
  | zero => omega
  | succ n ih =>
    have hrow : (copyRow rd put len src dst mem).wf := copyRow_wf hput hm len src dst
    have shift : ∀ (b sk j i : Nat),
        b + len + sk + j * (len + sk) + i = b + (j + 1) * (len + sk) + i := by
      intro b sk j i
      rw [Nat.add_mul, Nat.one_mul]
      omega
    cases j with
    | zero =>
      have rest : (copyRows rd put len ss ds (n + 1) src dst mem).read
            (key (dst + 0 * (len + ds) + i)) =
          (copyRow rd put len src dst mem).read (key (dst + 0 * (len + ds) + i)) := by
        rw [copyRows_succ]
        refine copyRows_read_other hput fun j' i' hj' hi' => ?_
        rw [shift dst ds j' i']
        exact h (j' + 1) i' (by omega) hi' (by omega)
      rw [rest]
      simp only [Nat.zero_mul, Nat.add_zero]
      exact copyRow_read_last hput hm hi fun i' h1 h2 => by
        simpa using h 0 i' (by omega) h2 (by omega)
    | succ j =>
      have := ih (src := src + len + ss) (dst := dst + len + ds) (j := j) hrow (by omega)
        fun j' i' hj' hi' hlt => by
          rw [shift dst ds j' i', shift dst ds j i]
          exact h (j' + 1) i' (by omega) hi' (by omega)
      rwa [shift dst ds j i, shift src ss j i] at this

/-- A row that stores at every place the byte that stands there changes nothing. -/
theorem copyRow_id (hput : ∀ m a b, put m a b = Memory.write m (key a) b) {mem : Memory}
    (hm : mem.wf) {n src dst : Nat} (h : ∀ i, i < n → rd (src + i) = mem.read (key (dst + i))) :
    copyRow rd put n src dst mem = mem := by
  induction n generalizing src dst with
  | zero => rfl
  | succ n ih =>
    have h0 := h 0 (by omega)
    simp only [Nat.add_zero] at h0
    rw [copyRow_succ, hput, h0, Memory.write_read hm]
    exact ih fun i hi => by
      simpa [Nat.add_assoc, Nat.add_comm 1] using h (i + 1) (by omega)

/-- So does a transfer of such rows. -/
theorem copyRows_id (hput : ∀ m a b, put m a b = Memory.write m (key a) b) {mem : Memory}
    (hm : mem.wf) {len ss ds n src dst : Nat}
    (h : ∀ j i, j < n → i < len →
      rd (src + j * (len + ss) + i) = mem.read (key (dst + j * (len + ds) + i))) :
    copyRows rd put len ss ds n src dst mem = mem := by
  induction n generalizing src dst with
  | zero => rfl
  | succ n ih =>
    have shift : ∀ (b sk j i : Nat),
        b + len + sk + j * (len + sk) + i = b + (j + 1) * (len + sk) + i := by
      intro b sk j i
      rw [Nat.add_mul, Nat.one_mul]
      omega
    rw [copyRows_succ, copyRow_id hput hm fun i hi => by simpa using h 0 i (by omega) hi]
    refine ih fun j i hj hi => ?_
    rw [shift, shift]
    exact h (j + 1) i (by omega) hi

/-- How a byte of local memory is stored by a transfer in. -/
theorem lmPut_eq (m : Memory) (a : Nat) (b : Byte) :
    lmPut m a b = Memory.write m (a % localMemSize) b := rfl

/-- How a byte of main memory is stored by a transfer out. -/
theorem mainPut_eq (c : Config) (m : Memory) (a : Nat) (b : Byte) :
    mainPut c m a b = Memory.write m (physAddr c a) b := rfl

end Sys2Proof.Machine
end

