-- ==== Sys2Proof/Laws/Exec.lean ====
section
/-! SUPPORT. The operations sorted by what they can do: a command's row is the STATUS write that
carries it alone, and every operation is a plain one, a STATUS write, a dispatch or the post-run
step. -/

namespace Sys2Proof.Machine

/-- A command's own row runs as the STATUS write of any word that carries it alone (R95, R160). -/
theorem exec_command (c : Command) {s : State} {w : Word}
    (h : ∀ d : Command, d.present s.config.cmdBits w = decide (d = c)) :
    exec c.instr s = .next (s.applyStatusWrite w) := by
  cases c with
  | clrSig n =>
    fin_cases n <;>
      simp [State.applyStatusWrite, State.statusEffects, State.statusSideEffects, h,
        clearsHaltOrBroke, clearPass, setPass, Command.all, clearStep, setStep, clearedBy,
        setBy] <;> rfl
  | setSig n =>
    fin_cases n <;>
      simp [State.applyStatusWrite, State.statusEffects, State.statusSideEffects, h,
        clearsHaltOrBroke, clearPass, setPass, Command.all, clearStep, setStep, clearedBy,
        setBy] <;> rfl
  | _ =>
    simp [State.applyStatusWrite, State.statusEffects, State.statusSideEffects,
      clearsHaltOrBroke, clearPass, setPass, h, Command.all, clearStep, setStep, clearedBy, setBy]
    rfl

/-- The operations that can dispatch. -/
theorem mayDispatch_cases {i : Instr} (h : i.mayDispatch = true) :
    (∃ v m, i = .wrStatus v m) ∨ (∃ c : Command, i = c.instr) ∨ i = .dispatchGfx ∨
      i = .dispatchAudio ∨ (∃ tag, i = .dispatchOther tag) ∨ i = .postrun ∨ i = .redispatch := by
  cases i with
  | wrStatus v m => exact .inl ⟨v, m, rfl⟩
  | clrHalt => exact .inr (.inl ⟨.clrHalt, rfl⟩)
  | setHalt => exact .inr (.inl ⟨.setHalt, rfl⟩)
  | clrBroke => exact .inr (.inl ⟨.clrBroke, rfl⟩)
  | clrIntr => exact .inr (.inl ⟨.clrIntr, rfl⟩)
  | setIntr => exact .inr (.inl ⟨.setIntr, rfl⟩)
  | clrSstep => exact .inr (.inl ⟨.clrSstep, rfl⟩)
  | setSstep => exact .inr (.inl ⟨.setSstep, rfl⟩)
  | clrIntrBreak => exact .inr (.inl ⟨.clrIntrBreak, rfl⟩)
  | setIntrBreak => exact .inr (.inl ⟨.setIntrBreak, rfl⟩)
  | clrSig0 => exact .inr (.inl ⟨.clrSig 0, rfl⟩)
  | setSig0 => exact .inr (.inl ⟨.setSig 0, rfl⟩)
  | clrSig1 => exact .inr (.inl ⟨.clrSig 1, rfl⟩)
  | setSig1 => exact .inr (.inl ⟨.setSig 1, rfl⟩)
  | clrSig2 => exact .inr (.inl ⟨.clrSig 2, rfl⟩)
  | setSig2 => exact .inr (.inl ⟨.setSig 2, rfl⟩)
  | clrSig3 => exact .inr (.inl ⟨.clrSig 3, rfl⟩)
  | setSig3 => exact .inr (.inl ⟨.setSig 3, rfl⟩)
  | clrSig4 => exact .inr (.inl ⟨.clrSig 4, rfl⟩)
  | setSig4 => exact .inr (.inl ⟨.setSig 4, rfl⟩)
  | clrSig5 => exact .inr (.inl ⟨.clrSig 5, rfl⟩)
  | setSig5 => exact .inr (.inl ⟨.setSig 5, rfl⟩)
  | clrSig6 => exact .inr (.inl ⟨.clrSig 6, rfl⟩)
  | setSig6 => exact .inr (.inl ⟨.setSig 6, rfl⟩)
  | clrSig7 => exact .inr (.inl ⟨.clrSig 7, rfl⟩)
  | setSig7 => exact .inr (.inl ⟨.setSig 7, rfl⟩)
  | _ => simp_all [Instr.mayDispatch]

/-- What one operation is: a plain one, the post-run step, a STATUS write of the word `w`, or a
dispatch. -/
theorem exec_cases {i : Instr} {s t : State} (h : exec i s = .next t) :
    i.mayDispatch = false ∨ (i = .postrun ∧ t = s.postRun) ∨
    (∃ w, t = s.applyStatusWrite w ∧
      ((∃ v m, i = .wrStatus v m ∧ w = v &&& m) ∨
        ∃ c : Command, i = c.instr ∧ w = c.word s.config.cmdBits)) ∨
    (DispatchFrame s t ∧ (i = .dispatchGfx ∨ i = .dispatchAudio ∨
      (∃ tag, i = .dispatchOther tag) ∨ i = .redispatch)) := by
  cases hm : i.mayDispatch
  · exact .inl rfl
  · right
    rcases mayDispatch_cases hm with ⟨v, m, rfl⟩ | ⟨c, rfl⟩ | rfl | rfl | ⟨tag, rfl⟩ | rfl | rfl
    · injection h with h
      exact .inr (.inl ⟨_, h.symm, .inl ⟨v, m, rfl, rfl⟩⟩)
    · rw [exec_command c (Command.present_word _ c)] at h
      injection h with h
      exact .inr (.inl ⟨_, h.symm, .inr ⟨c, rfl, rfl⟩⟩)
    · injection h with h
      exact .inr (.inr ⟨h ▸ s.dispatchGraphics_frame, by simp⟩)
    · injection h with h
      exact .inr (.inr ⟨h ▸ s.dispatchAudio_frame, by simp⟩)
    · injection h with h
      exact .inr (.inr ⟨h ▸ s.dispatchOther_frame, by simp⟩)
    · injection h with h
      exact .inl ⟨rfl, h.symm⟩
    · injection h with h
      refine .inr (.inr ⟨?_, by simp⟩)
      rw [← h]
      split
      · exact s.dispatch_frame
      · exact .refl s

end Sys2Proof.Machine
end

