-- ==== Sys2Proof/Laws/Invariant.lean ====
section
/-! SUPPORT. Every operation over memories and register banks keeps the representation
(`State.Inv`): the canonical form of both memories and of the secondary bank, and their bounds. -/

namespace Sys2Proof.Machine

/-- The representation depends on four fields only. -/
theorem State.Inv.congr {s t : State} (h : s.Inv) (hl : t.lm = s.lm) (hm : t.main = s.main)
    (hp : t.pcRegs = s.pcRegs) (hc : t.config = s.config) : t.Inv := by
  unfold State.Inv
  rw [hl, hm, hp, hc]
  exact h

theorem State.Inv.lmWrite {s : State} (h : s.Inv) (a : Nat) (b : Byte) : (s.lmWrite a b).Inv :=
  ⟨lmPut_wf h.1 a b, lmPut_below a b h.2.1, h.2.2⟩

theorem State.Inv.lmWriteWord {s : State} (h : s.Inv) (a : Nat) (w : Word) :
    (s.lmWriteWord a w).Inv := (((h.lmWrite _ _).lmWrite _ _).lmWrite _ _).lmWrite _ _

theorem State.Inv.mainWrite {s : State} (h : s.Inv) (a : Nat) (b : Byte) : (s.mainWrite a b).Inv :=
  ⟨h.1, h.2.1, mainPut_wf h.2.2.1 a b, mainPut_below a b h.2.2.2.1, h.2.2.2.2⟩

theorem State.Inv.setCtrl {s : State} (h : s.Inv) (r : CtrlReg) (v : Word) : (s.setCtrl r v).Inv :=
  h.congr (by simp) (by simp) (by simp) (by simp)

theorem State.Inv.setPr {s : State} (h : s.Inv) (k : Nat) (v : Word) : (s.setPr k v).Inv := by
  unfold State.setPr
  split
  · exact h
  · rename_i hk
    refine ⟨h.1, h.2.1, h.2.2.1, h.2.2.2.1, Cells.write_wf h.2.2.2.2.1, fun c hc => ?_⟩
    rcases Cells.mem_write hc with hc | ⟨rfl, _⟩
    · exact h.2.2.2.2.2 c hc
    · exact ⟨Nat.one_le_iff_ne_zero.2 hk, Nat.mod_lt _ (pcregsCount_pos _)⟩

theorem State.Inv.transferToLocal {s : State} (h : s.Inv) (k : BitVec 12) (c : BitVec 8)
    (l : BitVec 12) : (s.transferToLocal k c l).Inv :=
  ⟨copyRows_wf lmPut_eq h.1 _ _ _ _ _ _,
    copyRows_below lmPut_eq (fun _ => Nat.mod_lt _ (by decide)) h.2.1 _ _ _ _ _ _, h.2.2⟩

theorem State.Inv.transferToMain {s : State} (h : s.Inv) (k : BitVec 12) (c : BitVec 8)
    (l : BitVec 12) : (s.transferToMain k c l).Inv :=
  ⟨h.1, h.2.1, copyRows_wf (mainPut_eq s.config) h.2.2.1 _ _ _ _ _ _,
    copyRows_below (mainPut_eq s.config) (physAddr_lt s.config) h.2.2.2.1 _ _ _ _ _ _, h.2.2.2.2⟩

theorem State.Inv.applyEnv {s : State} (h : s.Inv) (e : EnvEdit) : (s.applyEnv e).Inv := by
  cases e with
  | main a b => exact h.mainWrite a b
  | _ => exact h

theorem State.Inv.applyExec {s : State} (h : s.Inv) (e : ExecEdit) : (s.applyExec e).Inv := by
  cases e with
  | env e => exact h.applyEnv e
  | ctrl r v => exact h.setCtrl r v
  | pr k v => exact h.setPr k v
  | lm a b => exact h.lmWrite a b
  | _ => exact h

theorem State.Inv.applyExecs {s : State} (h : s.Inv) (es : List ExecEdit) :
    (s.applyExecs es).Inv := by
  unfold State.applyExecs
  induction es generalizing s with
  | nil => exact h
  | cons e es ih => exact ih (h.applyExec e)

theorem State.Inv.execCall {s : State} (h : s.Inv) (k : ExecKind) : (s.execCall k).Inv :=
  State.Inv.applyExecs (s := s.record (s.execCallRecord k)) h (s.execAnswer k)

theorem State.Inv.runMasked {s : State} (h : s.Inv) (k : ExecKind) : (s.runMasked k).Inv :=
  State.Inv.execCall (s := { s with pc := s.pc &&& s.config.pcMask }) h k

theorem State.Inv.resetBlock {s : State} (h : s.Inv) : s.resetBlock.Inv := by
  refine ⟨⟨?_, ?_⟩, ?_, h.2.2.1, h.2.2.2.1, ⟨?_, ?_⟩, ?_⟩ <;> simp [State.reset]

end Sys2Proof.Machine
end

