-- ==== Sys2Proof/Laws/PerInstr.lean ====
section
/-! SUPPORT. Per operation: the encoder writes one of the fourteen selectors, so that the decoder
never rejects an encoded operation for its format. -/

namespace Sys2Proof.Laws.EncodedFormat

/-- The selector of the encoding of `i` names a format, whatever the parameters. -/
def Statement (i : Instr) : Prop := ∃ f, ∀ c, Format.ofSel (encode c i).sel = some f

theorem rdMemAddr : Statement .rdMemAddr := ⟨_, fun _ => rfl⟩
theorem rdDramAddr : Statement .rdDramAddr := ⟨_, fun _ => rfl⟩
theorem rdRdLen : Statement .rdRdLen := ⟨_, fun _ => rfl⟩
theorem rdWrLen : Statement .rdWrLen := ⟨_, fun _ => rfl⟩
theorem rdStatus : Statement .rdStatus := ⟨_, fun _ => rfl⟩
theorem rdDmaFull : Statement .rdDmaFull := ⟨_, fun _ => rfl⟩
theorem rdDmaBusy : Statement .rdDmaBusy := ⟨_, fun _ => rfl⟩
theorem rdSemaphore : Statement .rdSemaphore := ⟨_, fun _ => rfl⟩
theorem wrMemAddr (v : Word) (m : Word) : Statement (.wrMemAddr v m) := ⟨_, fun _ => rfl⟩
theorem wrDramAddr (v : Word) (m : Word) : Statement (.wrDramAddr v m) := ⟨_, fun _ => rfl⟩
theorem wrRdLen (v : Word) (m : Word) : Statement (.wrRdLen v m) := ⟨_, fun _ => rfl⟩
theorem wrWrLen (v : Word) (m : Word) : Statement (.wrWrLen v m) := ⟨_, fun _ => rfl⟩
theorem wrStatus (v : Word) (m : Word) : Statement (.wrStatus v m) := ⟨_, fun _ => rfl⟩
theorem wrDmaFull (v : Word) (m : Word) : Statement (.wrDmaFull v m) := ⟨_, fun _ => rfl⟩
theorem wrDmaBusy (v : Word) (m : Word) : Statement (.wrDmaBusy v m) := ⟨_, fun _ => rfl⟩
theorem wrSemaphore (v : Word) (m : Word) : Statement (.wrSemaphore v m) := ⟨_, fun _ => rfl⟩
theorem rdPc : Statement .rdPc := ⟨_, fun _ => rfl⟩
theorem wrPc (v : Word) (m : Word) : Statement (.wrPc v m) := ⟨_, fun _ => rfl⟩
theorem rdPcreg (k : BitVec 30) : Statement (.rdPcreg k) := ⟨_, fun _ => rfl⟩
theorem wrPcreg (k : BitVec 30) (v : Word) (m : Word) : Statement (.wrPcreg k v m) := ⟨_, fun _ => rfl⟩
theorem rdMem (a : BitVec 11) : Statement (.rdMem a) := ⟨_, fun _ => rfl⟩
theorem wrMem (a : BitVec 11) (v : Word) (m : Word) : Statement (.wrMem a v m) := ⟨_, fun _ => rfl⟩
theorem clrHalt : Statement .clrHalt := ⟨_, fun _ => rfl⟩
theorem setHalt : Statement .setHalt := ⟨_, fun _ => rfl⟩
theorem clrBroke : Statement .clrBroke := ⟨_, fun _ => rfl⟩
theorem clrIntr : Statement .clrIntr := ⟨_, fun _ => rfl⟩
theorem setIntr : Statement .setIntr := ⟨_, fun _ => rfl⟩
theorem clrSstep : Statement .clrSstep := ⟨_, fun _ => rfl⟩
theorem setSstep : Statement .setSstep := ⟨_, fun _ => rfl⟩
theorem clrIntrBreak : Statement .clrIntrBreak := ⟨_, fun _ => rfl⟩
theorem setIntrBreak : Statement .setIntrBreak := ⟨_, fun _ => rfl⟩
theorem clrSig0 : Statement .clrSig0 := ⟨_, fun _ => rfl⟩
theorem setSig0 : Statement .setSig0 := ⟨_, fun _ => rfl⟩
theorem clrSig1 : Statement .clrSig1 := ⟨_, fun _ => rfl⟩
theorem setSig1 : Statement .setSig1 := ⟨_, fun _ => rfl⟩
theorem clrSig2 : Statement .clrSig2 := ⟨_, fun _ => rfl⟩
theorem setSig2 : Statement .setSig2 := ⟨_, fun _ => rfl⟩
theorem clrSig3 : Statement .clrSig3 := ⟨_, fun _ => rfl⟩
theorem setSig3 : Statement .setSig3 := ⟨_, fun _ => rfl⟩
theorem clrSig4 : Statement .clrSig4 := ⟨_, fun _ => rfl⟩
theorem setSig4 : Statement .setSig4 := ⟨_, fun _ => rfl⟩
theorem clrSig5 : Statement .clrSig5 := ⟨_, fun _ => rfl⟩
theorem setSig5 : Statement .setSig5 := ⟨_, fun _ => rfl⟩
theorem clrSig6 : Statement .clrSig6 := ⟨_, fun _ => rfl⟩
theorem setSig6 : Statement .setSig6 := ⟨_, fun _ => rfl⟩
theorem clrSig7 : Statement .clrSig7 := ⟨_, fun _ => rfl⟩
theorem setSig7 : Statement .setSig7 := ⟨_, fun _ => rfl⟩
theorem dmaToLocal (sk : BitVec 12) (c : BitVec 8) (l : BitVec 12) : Statement (.dmaToLocal sk c l) := ⟨_, fun _ => rfl⟩
theorem dmaToMain (sk : BitVec 12) (c : BitVec 8) (l : BitVec 12) : Statement (.dmaToMain sk c l) := ⟨_, fun _ => rfl⟩
theorem dispatchGfx : Statement .dispatchGfx := ⟨_, fun _ => rfl⟩
theorem dispatchAudio : Statement .dispatchAudio := ⟨_, fun _ => rfl⟩
theorem dispatchOther (tag : Word) : Statement (.dispatchOther tag) := ⟨_, fun _ => rfl⟩
theorem postrun : Statement .postrun := ⟨_, fun _ => rfl⟩
theorem deliverSpInt : Statement .deliverSpInt := ⟨_, fun _ => rfl⟩
theorem redispatch : Statement .redispatch := ⟨_, fun _ => rfl⟩
theorem reset : Statement .reset := ⟨_, fun _ => rfl⟩

end Sys2Proof.Laws.EncodedFormat
end

