-- ==== Sys2Proof/Tests/Slice0.lean ====
section
/-! SUPPORT. Tests: the well-formedness smoke, the decoding of words written out from
30_encoding.md, single steps whose expected results are those of 95_test_vectors.md (named in each
docstring), and for each obligation with hypotheses a witness that meets them. -/

set_option maxRecDepth 8000

namespace Sys2Proof.Tests

open Sys2Proof.Machine

/-! ## Helpers -/

/-- The next state of one operation. -/
def after (i : Instr) (s : State) : Option State :=
  match exec i s with
  | .next t => some t
  | .fault _ | .refused _ => none

/-- The operation the decoder reads, on a block with the parameters of the reset state. -/
def decoded (sel : Byte) (word wdata wmask : Word) : Option Instr :=
  match decode Config.default ⟨sel, word, wdata, wmask⟩ with
  | .ok i => some i
  | .error _ => none

/-- The reset state with STATUS `st`, and one scripted executor answer `es`. -/
def start (st : Word) (es : List ExecEdit) : State :=
  { State.reset with status := st, execScript := [es] }

/-- With the tag word `tag` in local memory. -/
def tagged (tag : Word) (s : State) : State := s.lmWriteWord tagOffset tag

/-- One pending completion event, and the task locked. -/
def awaiting (st : Word) : State :=
  { start st [] with taskLocked := true, timeline := [⟨.spInt, 0⟩] }

/-- The audio flag on. -/
def audioOn (s : State) : State :=
  { s with config := { s.config with audioSignalEnabled := true } }

/-- What a test of a STATUS command looks at. -/
def statusView (t : Option State) : Option (Word × List Call × Bool) :=
  t.map fun t => (t.status, t.calls, t.taskLocked)

/-- Local memory bytes `a`, `a + 1`, ... -/
def lmBytes (n a : Nat) (t : Option State) : Option (List Byte) :=
  t.map fun t => (List.range n).map fun i => t.lmRead (a + i)

/-- Main memory bytes `a`, `a + 1`, ... -/
def mainBytes (n a : Nat) (t : Option State) : Option (List Byte) :=
  t.map fun t => (List.range n).map fun i => t.mainRead (a + i)

/-! ## Well-formedness: each check refuses an ill-formed term -/

theorem test_wf_refuses_rdPcreg_of_pc : (Instr.rdPcreg 0).wf Config.default = false := by decide
theorem test_wf_refuses_rdPcreg_beyond_the_bank :
    (Instr.rdPcreg 2).wf Config.default = false := by decide
theorem test_wf_refuses_wrPcreg_of_pc : (Instr.wrPcreg 0 0 0).wf Config.default = false := by decide
theorem test_wf_refuses_wrPcreg_beyond_the_bank :
    (Instr.wrPcreg 2 0 0).wf Config.default = false := by decide
theorem test_wf_refuses_other_tag_one :
    (Instr.dispatchOther 1).wf Config.default = false := by decide
theorem test_wf_refuses_other_tag_two :
    (Instr.dispatchOther 2).wf Config.default = false := by decide

/-! ## Decoding: words written out from R91 to R98 -/

/-- R91: `addr[4:2]` at the offsets 0x00 to 0x1C, the other address bits ignored. -/
theorem test_decode_control_reads :
    decoded 1 0x00000000 0 0 = some .rdMemAddr ∧ decoded 1 0xFFFFFFE7 0 0 = some .rdDramAddr ∧
    decoded 1 0x00000008 0 0 = some .rdRdLen ∧ decoded 1 0x0000000C 0 0 = some .rdWrLen ∧
    decoded 1 0x00000010 0 0 = some .rdStatus ∧ decoded 1 0x00000014 0 0 = some .rdDmaFull ∧
    decoded 1 0x00000018 0 0 = some .rdDmaBusy ∧ decoded 1 0x0000003C 0 0 = some .rdSemaphore := by
  decide

theorem test_decode_control_writes :
    decoded 2 0x00 0xA 0xB = some (.wrMemAddr 0xA 0xB) ∧
    decoded 2 0x24 0xABC 0xFFFFFFFF = some (.wrDramAddr 0xABC 0xFFFFFFFF) ∧
    decoded 2 0x08 0x801007 0xFFFFFFFF = some (.wrRdLen 0x801007 0xFFFFFFFF) ∧
    decoded 2 0x0C 0xFFFFFFFF 0 = some (.wrWrLen 0xFFFFFFFF 0) ∧
    decoded 2 0x10 0x201 0xFF00 = some (.wrStatus 0x201 0xFF00) ∧
    decoded 2 0x14 1 2 = some (.wrDmaFull 1 2) ∧ decoded 2 0x18 3 4 = some (.wrDmaBusy 3 4) ∧
    decoded 2 0x1C 0x12345678 0xFF = some (.wrSemaphore 0x12345678 0xFF) := by decide

/-- R92 with `PCREGS_COUNT` = 2 (V2.20: offset 0x08 is the program counter again). -/
theorem test_decode_secondary_bank :
    decoded 3 0x00 0 0 = some .rdPc ∧ decoded 3 0x08 0 0 = some .rdPc ∧
    decoded 3 0x04 0 0 = some (.rdPcreg 1) ∧ decoded 4 0x00 5 6 = some (.wrPc 5 6) ∧
    decoded 4 0x04 0xDEADBEEF 0xFF0000FF = some (.wrPcreg 1 0xDEADBEEF 0xFF0000FF) := by decide

/-- R93: `addr & 0x1FFC` (V2.22, V2.23). -/
theorem test_decode_local_memory :
    decoded 5 0x0FC0 0 0 = some (.rdMem 0x3F0) ∧ decoded 5 0x3FFF 0 0 = some (.rdMem 0x7FF) ∧
    decoded 6 0x2010 1 2 = some (.wrMem 4 1 2) := by decide

/-- R95, bits 0 to 9. -/
theorem test_decode_mode_commands :
    decoded 0 0x00000001 0 0 = some .clrHalt ∧ decoded 0 0x00000002 0 0 = some .setHalt ∧
    decoded 0 0x00000004 0 0 = some .clrBroke ∧ decoded 0 0x00000010 0 0 = some .clrIntr ∧
    decoded 0 0x00000020 0 0 = some .setIntr ∧ decoded 0 0x00000040 0 0 = some .clrSstep ∧
    decoded 0 0x00000080 0 0 = some .setSstep ∧ decoded 0 0x00000100 0 0 = some .clrIntrBreak ∧
    decoded 0 0x00000200 0 0 = some .setIntrBreak := by decide

/-- R95, bits 10 to 25. -/
theorem test_decode_signal_commands :
    decoded 0 0x00000400 0 0 = some .clrSig0 ∧ decoded 0 0x00000800 0 0 = some .setSig0 ∧
    decoded 0 0x00001000 0 0 = some .clrSig1 ∧ decoded 0 0x00002000 0 0 = some .setSig1 ∧
    decoded 0 0x00004000 0 0 = some .clrSig2 ∧ decoded 0 0x00008000 0 0 = some .setSig2 ∧
    decoded 0 0x00010000 0 0 = some .clrSig3 ∧ decoded 0 0x00020000 0 0 = some .setSig3 ∧
    decoded 0 0x00040000 0 0 = some .clrSig4 ∧ decoded 0 0x00080000 0 0 = some .setSig4 ∧
    decoded 0 0x00100000 0 0 = some .clrSig5 ∧ decoded 0 0x00200000 0 0 = some .setSig5 ∧
    decoded 0 0x00400000 0 0 = some .clrSig6 ∧ decoded 0 0x00800000 0 0 = some .setSig6 ∧
    decoded 0 0x01000000 0 0 = some .clrSig7 ∧ decoded 0 0x02000000 0 0 = some .setSig7 := by decide

/-- R164, R187, R188: a word with no command, or with several, is the STATUS write that carries
it; a reserved bit beside one command is ignored. -/
theorem test_decode_other_status_words :
    decoded 0 0xFC000008 0 0 = some (.wrStatus 0xFC000008 0xFFFFFFFF) ∧
    decoded 0 0x00000005 0 0 = some (.wrStatus 0x00000005 0xFFFFFFFF) ∧
    decoded 0 0xFC00000A 0 0 = some .setHalt := by decide

/-- R96 on 0x12345678: skip 0x123, count-1 0x45, rawlen 0x678 (V4.1). -/
theorem test_decode_length_words :
    decoded 7 0x12345678 0 0 = some (.dmaToLocal 0x123 0x45 0x678) ∧
    decoded 8 0x12345678 0 0 = some (.dmaToMain 0x123 0x45 0x678) := by decide

/-- R98: all 32 bits are compared (V5.18, V5.19). -/
theorem test_decode_tags :
    decoded 9 1 0 0 = some .dispatchGfx ∧ decoded 9 2 0 0 = some .dispatchAudio ∧
    decoded 9 0 0 0 = some (.dispatchOther 0) ∧
    decoded 9 0x01000000 0 0 = some (.dispatchOther 0x01000000) := by decide

theorem test_decode_events :
    decoded 10 0 0 0 = some .postrun ∧ decoded 11 0 0 0 = some .deliverSpInt ∧
    decoded 12 0 0 0 = some .redispatch ∧ decoded 13 0 0 0 = some .reset := by decide

theorem test_decode_rejects_unused_selectors :
    decoded 14 0 0 0 = none ∧ decoded 255 0xFFFFFFFF 0 0 = none := by decide

/-- The bits of a row as the operation table numbers them, and the same with the selector above. -/
theorem test_decodeTableWord :
    decodeTableWord 32 0x02000000 = some .setSig7 ∧
    decodeTableWord 104 (0x0C * 2 ^ 96) = some .redispatch := by decide

theorem test_decodeBytes_leaves_the_rest :
    (match decodeBytes Config.default ([0x10] ++ List.replicate 11 0 ++ [1, 0xAA, 0xBB]) with
     | .ok (i, rest) => i == .rdStatus && rest == [0xAA, 0xBB]
     | .error _ => false) = true := by decide

/-! ## Bus reads -/

/-- R121: all 32 stored bits (V2.1). -/
theorem test_rd_mem_addr :
    (after .rdMemAddr { State.reset with memAddr := 0xFFFFFFFF }).map State.rdata =
      some 0xFFFFFFFF := by decide

/-- R122. -/
theorem test_rd_dram_addr :
    (after .rdDramAddr { State.reset with dramAddr := 0x12345678 }).map State.rdata =
      some 0x12345678 := by decide

/-- R123: reading starts no transfer (V4.11). -/
theorem test_rd_rd_len :
    (after .rdRdLen { State.reset with rdLen := 0x00801007, main := [(0, 0x55)] }).map
      (fun t => (t.rdata, t.lm)) = some (0x00801007, []) := by decide

/-- R124: reading starts no transfer (V4.11). -/
theorem test_rd_wr_len :
    (after .rdWrLen { State.reset with wrLen := 0x3, lm := [(0, 0x55)] }).map
      (fun t => (t.rdata, t.main)) = some (0x3, []) := by decide

/-- V2.7. -/
theorem test_rd_status : (after .rdStatus State.reset).map State.rdata = some 0x00000001 := by
  decide

/-- R126, R127: each answers its own word (R29: the executor may have stored one). -/
theorem test_rd_dma_full :
    (after .rdDmaFull { State.reset with dmaFull := 5, dmaBusy := 6 }).map State.rdata =
      some 5 := by decide
theorem test_rd_dma_busy :
    (after .rdDmaBusy { State.reset with dmaFull := 5, dmaBusy := 6 }).map State.rdata =
      some 6 := by decide

/-- V2.12. -/
theorem test_rd_semaphore_acquires :
    (after .rdSemaphore State.reset).map (fun t => (t.rdata, t.semaphore)) = some (0, 1) := by decide
theorem test_rd_semaphore_again :
    (after .rdSemaphore { State.reset with semaphore := 1 }).map
      (fun t => (t.rdata, t.semaphore)) = some (1, 1) := by decide

/-- V2.17, V2.19. -/
theorem test_rd_pc :
    (after .rdPc { State.reset with pc := 0x04001080, pcRegs := [(1, 7)] }).map State.rdata =
      some 0x04001080 := by decide
theorem test_rd_pcreg :
    (after (.rdPcreg 1) { State.reset with pc := 9, pcRegs := [(1, 0xDE0000EF)] }).map
      State.rdata = some 0xDE0000EF := by decide

/-- R61: `LM[a]` in bits 31:24. -/
theorem test_rd_mem :
    (after (.rdMem 4) { State.reset with
      lm := [(0x10, 0xAA), (0x11, 0x22), (0x12, 0x33), (0x13, 0x44)] }).map State.rdata =
      some 0xAA223344 := by decide

/-! ## Bus writes -/

/-- V2.2. -/
theorem test_wr_mem_addr :
    (after (.wrMemAddr 0x00001FF8 0x0000FFFF) { State.reset with memAddr := 0xFFFFFFFF }).map
      State.memAddr = some 0xFFFF1FF8 := by decide

/-- V2.3; V1.6, a mask that is not lane-granular. -/
theorem test_wr_dram_addr :
    (after (.wrDramAddr 0xAA000000 0xFF000000) { State.reset with dramAddr := 0x12345678 }).map
      State.dramAddr = some 0xAA345678 := by decide
theorem test_wr_dram_addr_bitwise_mask :
    (after (.wrDramAddr 0x9ABCDEF0 0x0F0F0F0F) { State.reset with dramAddr := 0x12345678 }).map
      State.dramAddr = some 0x1A3C5E70 := by decide

/-- V2.15: with mask 0 the register keeps its value and the transfer still runs. -/
theorem test_wr_rd_len_with_mask_zero :
    (after (.wrRdLen 0x12345678 0) { State.reset with
      main := [(0, 0xA0), (7, 0xA7), (8, 0xA8)] }).map (fun t => (t.rdLen, t.lm)) =
      some (0, [(0, 0xA0), (7, 0xA7)]) := by decide

/-- V4.2, and the register file after it (R219). -/
theorem test_wr_rd_len_strided :
    (after (.wrRdLen 0x00801007 0xFFFFFFFF) { State.reset with
      memAddr := 0xFF8, dramAddr := 0x100
      main := [(0x101, 0x01), (0x107, 0x07), (0x108, 0x08), (0x110, 0x10), (0x117, 0x17)] }).map
      (fun t => (t.lm, t.memAddr, t.dramAddr, t.rdLen)) =
      some ([(0xFF9, 0x01), (0xFFF, 0x07), (0x1000, 0x10), (0x1007, 0x17)],
        0xFF8, 0x100, 0x00801007) := by decide

/-- V2.16: one byte moves. -/
theorem test_wr_wr_len_with_mask_zero :
    (after (.wrWrLen 0xFFFFFFFF 0) { State.reset with
      lm := [(0, 0x5A), (1, 0x5B)], main := [(0, 1), (1, 2)] }).map
      (fun t => (t.wrLen, t.main)) = some (0, [(0, 0x5A), (1, 2)]) := by decide

/-- V4.3. -/
theorem test_wr_wr_len_strided :
    mainBytes 0x14 0x200 (after (.wrWrLen 0x00402003 0xFFFFFFFF) { State.reset with
      dramAddr := 0x200
      lm := [(0, 0x10), (1, 0x11), (2, 0x12), (3, 0x13), (4, 0x14), (5, 0x15), (6, 0x16),
        (7, 0x17), (8, 0x18), (9, 0x19), (0xA, 0x1A), (0xB, 0x1B)]
      main := (List.range 0x14).map fun i => (0x200 + i, 0xEE) }) =
      some [0x10, 0x11, 0x12, 0x13, 0xEE, 0xEE, 0xEE, 0xEE, 0x14, 0x15, 0x16, 0x17, 0xEE, 0xEE,
        0xEE, 0xEE, 0x18, 0x19, 0x1A, 0x1B] := by decide

/-- V2.9: the CLR_HALT in a lane the mask does not select is not seen. -/
theorem test_wr_status_masked :
    statusView (after (.wrStatus 0x00000201 0x0000FF00) State.reset) =
      some (0x00000041, [], false) := by decide

/-- V3.2b and V3.2f with audio on: clear, then set, then the calls in ascending bit order. -/
theorem test_wr_status_order :
    statusView (after (.wrStatus 0xFFFFFFFF 0xFFFFFFFF) (audioOn State.reset)) =
      some (0x00007FE1, [.clearPendingInterrupt .sp, .schedulePendingInterrupt .sp,
        .raiseInterrupt .sp], false) := by decide

/-- V2.10, V2.11. -/
theorem test_wr_dma_full :
    after (.wrDmaFull 0xFFFFFFFF 0xFFFFFFFF) State.reset = some State.reset := by decide
theorem test_wr_dma_busy :
    after (.wrDmaBusy 0xFFFFFFFF 0xFFFFFFFF) State.reset = some State.reset := by decide

/-- V2.13, V2.14. -/
theorem test_wr_semaphore_full_mask :
    (after (.wrSemaphore 0xFFFFFFFF 0xFFFFFFFF) { State.reset with semaphore := 1 }).map
      State.semaphore = some 0 := by decide
theorem test_wr_semaphore_mask_zero :
    (after (.wrSemaphore 0xFFFFFFFF 0) { State.reset with semaphore := 1 }).map
      State.semaphore = some 0 := by decide

/-- V2.18. -/
theorem test_wr_pc :
    (after (.wrPc 0x00000123 0x0000FFFF) { State.reset with pc := 0x04001080 }).map
      (fun t => (t.pc, t.pcRegs)) = some (0x04000123, []) := by decide

/-- V2.19. -/
theorem test_wr_pcreg :
    (after (.wrPcreg 1 0xDEADBEEF 0xFF0000FF) State.reset).map
      (fun t => (t.pc, t.pcRegs)) = some (0, [(1, 0xDE0000EF)]) := by decide

/-- V2.21 and V2.23: `LM[0x1FFC..0x1FFF]` = CA FE BA BE. -/
theorem test_wr_mem_lane :
    (after (.wrMem 4 0xAABBCCDD 0xFF000000) { State.reset with
      lm := [(0x10, 0x11), (0x11, 0x22), (0x12, 0x33), (0x13, 0x44)] }).map State.lm =
      some [(0x10, 0xAA), (0x11, 0x22), (0x12, 0x33), (0x13, 0x44)] := by decide
theorem test_wr_mem_top :
    (after (.wrMem 0x7FF 0xCAFEBABE 0xFFFFFFFF) State.reset).map State.lm =
      some [(0x1FFC, 0xCA), (0x1FFD, 0xFE), (0x1FFE, 0xBA), (0x1FFF, 0xBE)] := by decide

/-! ## STATUS commands: the rows of V3.1 -/

/-- The view after one command from STATUS `st`. -/
def commandView (i : Instr) (st : Word) : Option (Word × List Call × Bool) :=
  statusView (after i (start st []))

theorem test_clr_halt : commandView .clrHalt 0x7FE3 = some (0x7FE2, [], false) := by decide
/-- V3.3a: with the flags clear it dispatches. -/
theorem test_clr_halt_dispatches :
    commandView .clrHalt 1 =
      some (0, [.runUntilYield 0 0, .scheduleEvent .spInt 0], true) := by decide
theorem test_set_halt : commandView .setHalt 0 = some (1, [], false) := by decide
theorem test_clr_broke : commandView .clrBroke 0x7FE3 = some (0x7FE1, [], false) := by decide
theorem test_clr_intr :
    commandView .clrIntr 0x7FE3 = some (0x7FE3, [.clearPendingInterrupt .sp], false) := by decide
theorem test_set_intr :
    commandView .setIntr 1 = some (1, [.schedulePendingInterrupt .sp], false) := by decide
theorem test_clr_sstep : commandView .clrSstep 0x7FE3 = some (0x7FC3, [], false) := by decide
theorem test_set_sstep : commandView .setSstep 1 = some (0x21, [], false) := by decide
theorem test_clr_intr_break :
    commandView .clrIntrBreak 0x7FE3 = some (0x7FA3, [], false) := by decide
theorem test_set_intr_break : commandView .setIntrBreak 1 = some (0x41, [], false) := by decide
theorem test_clr_sig0 : commandView .clrSig0 0x7FE3 = some (0x7F63, [], false) := by decide
theorem test_set_sig0 : commandView .setSig0 1 = some (0x81, [], false) := by decide
/-- R172: the audio shortcut. -/
theorem test_set_sig0_audio :
    statusView (after .setSig0 (audioOn State.reset)) =
      some (0x81, [.raiseInterrupt .sp], false) := by decide
theorem test_clr_sig1 : commandView .clrSig1 0x7FE3 = some (0x7EE3, [], false) := by decide
theorem test_set_sig1 : commandView .setSig1 1 = some (0x101, [], false) := by decide
theorem test_clr_sig2 : commandView .clrSig2 0x7FE3 = some (0x7DE3, [], false) := by decide
theorem test_set_sig2 : commandView .setSig2 1 = some (0x201, [], false) := by decide
theorem test_clr_sig3 : commandView .clrSig3 0x7FE3 = some (0x7BE3, [], false) := by decide
theorem test_set_sig3 : commandView .setSig3 1 = some (0x401, [], false) := by decide
theorem test_clr_sig4 : commandView .clrSig4 0x7FE3 = some (0x77E3, [], false) := by decide
theorem test_set_sig4 : commandView .setSig4 1 = some (0x801, [], false) := by decide
theorem test_clr_sig5 : commandView .clrSig5 0x7FE3 = some (0x6FE3, [], false) := by decide
theorem test_set_sig5 : commandView .setSig5 1 = some (0x1001, [], false) := by decide
theorem test_clr_sig6 : commandView .clrSig6 0x7FE3 = some (0x5FE3, [], false) := by decide
theorem test_set_sig6 : commandView .setSig6 1 = some (0x2001, [], false) := by decide
theorem test_clr_sig7 : commandView .clrSig7 0x7FE3 = some (0x3FE3, [], false) := by decide
theorem test_set_sig7 : commandView .setSig7 1 = some (0x4001, [], false) := by decide

/-- V3.3k: the first gate, and the flag still changes. -/
theorem test_set_sig1_first_gate :
    statusView (after .setSig1 (awaiting 0)) = some (0x100, [], true) := by decide

/-- V3.3j. -/
theorem test_clr_broke_first_gate :
    statusView (after .clrBroke (awaiting 2)) = some (0, [], true) := by decide

/-- V3.3m: a yielded task resumes on any STATUS write. -/
theorem test_set_sig2_resumes_a_yielded_task :
    statusView (after .setSig2 { start 0 [] with taskLocked := true }) =
      some (0x200, [.runUntilYield 0 0, .scheduleEvent .spInt 0], true) := by decide

/-- V3.3o: the third gate leaves the lock as it was. -/
theorem test_set_halt_third_gate :
    statusView (after .setHalt { start 0 [] with taskLocked := true }) = some (1, [], true) := by
  decide

/-! ## Other tables -/

/-- A block whose flags stand in the bits 0 to 11 in the order of R27, and whose commands stand in the
bits 0 to 24, the order of R95 without its gap (93_implementation_defined.md U9, U10). -/
def packed : Config :=
  { Config.default with
    flagBits := ⟨0, 1, 2, 3, #v[4, 5, 6, 7, 8, 9, 10, 11], by decide⟩
    cmdBits := ⟨0, 1, 2, 3, 4, 5, 6, 7, 8, #v[9, 11, 13, 15, 17, 19, 21, 23],
      #v[10, 12, 14, 16, 18, 20, 22, 24], by decide⟩ }

/-- The tables decide which command a bit is and which flag it changes. -/
theorem test_packed_tables :
    statusView (after (.wrStatus 0x01000040 0xFFFFFFFF) { State.reset with config := packed }) =
      some (0x805, [], false) ∧
    (match decode packed ⟨0, 0x00000040, 0, 0⟩ with
     | .ok i => i == .setSstep
     | .error _ => false) = true := by decide

/-! ## DMA -/

/-- V4.4: the local address wraps modulo 8192. -/
theorem test_dma_to_local_wraps :
    (after (.dmaToLocal 0 0 0) { State.reset with
      memAddr := 0x1FFC, dramAddr := 0x40
      main := [(0x40, 0xC0), (0x43, 0xC3), (0x44, 0xC4), (0x47, 0xC7)] }).map State.lm =
      some [(0, 0xC4), (3, 0xC7), (0x1FFC, 0xC0), (0x1FFF, 0xC3)] := by decide

/-- V4.5: DRAM_ADDR bits 31:24 are ignored and the main side wraps at 0x800000. -/
theorem test_dma_to_local_main_wraps :
    lmBytes 8 0x100 (after (.dmaToLocal 0 0 7) { State.reset with
      memAddr := 0x100, dramAddr := 0xFF7FFFFC
      main := [(0, 5), (1, 6), (2, 7), (3, 8), (0x7FFFFC, 1), (0x7FFFFD, 2), (0x7FFFFE, 3),
        (0x7FFFFF, 4)] }) = some [1, 2, 3, 4, 5, 6, 7, 8] := by decide

/-- V4.7. -/
theorem test_dma_to_main_one_byte :
    (after (.dmaToMain 0 0 0) { State.reset with
      memAddr := 0x20, dramAddr := 0x300, lm := [(0x20, 0x77)]
      main := [(0x300, 0xEE), (0x301, 0xEE)] }).map State.main =
      some [(0x300, 0x77), (0x301, 0xEE)] := by decide

/-- V4.13: outside the condition of R222, bytes 0x0C to 0x0F end as 04 to 07. -/
theorem test_dma_to_main_counter_example :
    mainBytes 4 0xC (after (.dmaToMain 8 1 3) { State.reset with
      lm := [(4, 4), (5, 5), (6, 6), (7, 7)]
      main := [(0xC, 0xC), (0xD, 0xD), (0xE, 0xE), (0xF, 0xF)] }) =
      some [4, 5, 6, 7] := by decide

/-! ## Dispatch, post-run, port events -/

/-- What a test of a dispatch looks at. -/
def dispatchView (t : Option State) : Option (Word × Bool × List Event × Word × List Call) :=
  t.map fun t => (t.status, t.taskLocked, t.timeline, t.pc, t.calls)

/-- V5.10: the whole graphics path, the executor stopping the coprocessor. -/
theorem test_dispatch_gfx :
    dispatchView (after .dispatchGfx
      (start 0 [.ctrl .status 3, .env (.rasterIntr true)])) =
      some (3, false, [⟨.dpInt, 0⟩], 0,
        [.isFrozen false, .unprotectFramebuffers, .runUntilYield 0 0, .newFrame,
          .consumeInterruptFlag true, .scheduleEvent .dpInt 0, .protectFramebuffers]) := by decide

/-- V5.8: deferred. -/
theorem test_dispatch_gfx_frozen :
    dispatchView (after .dispatchGfx { start 0 [] with frozen := true }) =
      some (0, false, [], 0, [.isFrozen true]) := by decide

/-- V5.5, V5.6: the audio executor, frozen or not. -/
theorem test_dispatch_audio :
    dispatchView (after .dispatchAudio { start 0 [.pr 0 0x120] with
      pc := 0x04001080, frozen := true, config := { Config.default with audioHleMode := true } }) =
      some (0, true, [⟨.spInt, 0⟩], 0x04001120,
        [.runUntilYieldAudio 0x80 0, .scheduleEvent .spInt 0]) := by decide

/-- V5.11: the bits outside `PC_MASK` come back whatever the executor stored. -/
theorem test_dispatch_other :
    dispatchView (after (.dispatchOther 0) { start 0 [.pr 0 0xFFFFF456] with
      pc := 0xABCDE123 }) =
      some (0, true, [⟨.spInt, 0⟩], 0xABCDE456,
        [.runUntilYield 0x123 0, .scheduleEvent .spInt 0]) := by decide

/-- R247, the two examples. -/
theorem test_postrun_stopped :
    dispatchView (after .postrun State.reset) = some (1, false, [], 0, []) := by decide
theorem test_postrun_running :
    dispatchView (after .postrun { State.reset with status := 0 }) =
      some (0, true, [⟨.spInt, 0⟩], 0, [.scheduleEvent .spInt 0]) := by decide

/-- V5.14, V5.15. -/
theorem test_deliver_raises :
    dispatchView (after .deliverSpInt (awaiting 0x40)) =
      some (0x40, true, [], 0, [.raiseInterrupt .sp]) := by decide
theorem test_deliver_raises_nothing :
    dispatchView (after .deliverSpInt (awaiting 0)) = some (0, true, [], 0, []) := by decide

/-- V5.12, and V5.18 through the tag in local memory. -/
theorem test_redispatch_halted :
    dispatchView (after .redispatch (tagged 1 State.reset)) = some (1, false, [], 0, []) := by decide
theorem test_redispatch_compares_all_tag_bits :
    dispatchView (after .redispatch { tagged 0x01000000 (start 0 []) with frozen := true }) =
      some (0, true, [⟨.spInt, 0⟩], 0, [.runUntilYield 0 0, .scheduleEvent .spInt 0]) := by decide

/-- V5.17: the event stays, STATUS and the lock are reset. -/
theorem test_reset :
    dispatchView (after .reset { awaiting 0x40 with pc := 5, lm := [(1, 1)] }) =
      some (1, false, [⟨.spInt, 0⟩], 0, []) := by decide

/-- R37, R27: the literal of the reset state is the HALT flag alone. -/
theorem test_reset_status_is_the_halt_flag :
    State.reset.status = flagMask State.reset.config.flagBits .halt := by decide

/-! ## The step -/

/-- Only the fourteen selectors in use make a step go on. -/
theorem test_step_refuses_an_unused_selector :
    (match step (State.reset.withFetchWord 104 (14 * 2 ^ 96)) with
     | .refused (.notAnOperation (.unknownFormat sel)) => sel == 14
     | _ => false) = true := by decide

/-- The word placed by `withFetchWord` is run by the very next step. -/
theorem test_step_runs_the_placed_word :
    (match step (State.reset.withFetchWord 32 0x200) with
     | .next t => t.status == 0x41 && t.requests == []
     | _ => false) = true := by decide

/-! ## Witnesses: for each obligation with hypotheses, a state and operands that meet them -/

/-- A small state that meets the representation: bytes at both ends of local memory, in main memory
and in the secondary bank. -/
def sample : State :=
  { State.reset with
    lm := [(0, 1), (0x1FFF, 2)], main := [(0, 3), (0x7FFFFF, 4)], pcRegs := [(1, 5)]
    memAddr := 0x1FFC, dramAddr := 0x7FFFFC, execScript := [[]] }

theorem witness_sample_meets_the_representation : sample.Inv := by decide

/-- Both ways into the reset state: power-on, and a reset of the sample state. -/
theorem witness_PowerOnAndResetLeaveHaltAloneAndZeros :
    (∃ t, t = State.reset) ∧ ∃ s t, exec .reset s = .next t ∧ s ≠ t :=
  ⟨⟨State.reset, rfl⟩, sample, _, rfl, by decide⟩

/-- DecodeOfEncodeIsTheOperation: at the ends of the operand ranges. -/
theorem witness_DecodeOfEncodeIsTheOperation :
    (Instr.rdPcreg 1).wf Config.default = true ∧ (Instr.dispatchOther 0).wf Config.default = true ∧
    (Instr.dispatchOther 3).wf Config.default = true ∧
    (Instr.dispatchOther 0xFFFFFFFF).wf Config.default = true ∧
    (Instr.wrPcreg 0x3FFFFFFF 0 0).wf { Config.default with pcregsBits := 30 } = true := by decide

/-- The bus tuples of the register statements (`ReadOfCtrl` and its kin): an address for the first
and the last index of each bank. -/
theorem witness_bus_tuples :
    ((0x00000020#32 >>> 2) &&& 7#32).toNat = 0 ∧ ((0x0000001C#32 >>> 2) &&& 7#32).toNat = 7 ∧
    (0#32).toNat / 4 % 2 ^ Config.default.pcregsBits = 0 ∧
    (0xFFFFFFFF#32).toNat / 4 % 2 ^ Config.default.pcregsBits = 1 ∧
    (0xFFFFE003#32 &&& 0x1FFC#32).toNat = 0 ∧ (0xFFFFFFFF#32 &&& 0x1FFC#32).toNat = 0x1FFC := by
  decide

/-- EveryBusTransactionIsOneRowAndCompletes: the first and the last of the formats. -/
theorem witness_EveryBusTransaction :
    Format.ctrlRead ∈ [Format.ctrlRead, .ctrlWrite, .pcRead, .pcWrite, .memRead, .memWrite] ∧
    Format.memWrite ∈ [Format.ctrlRead, .ctrlWrite, .pcRead, .pcWrite, .memRead, .memWrite] := by
  decide

/-- SecondaryBankDecodesModuloItsSize: a bank of one word, and both clauses of the conditional on
a bank of two. -/
theorem witness_SecondaryBankDecodesModuloItsSize :
    Config.pcregsCount { Config.default with pcregsBits := 0 } = 1 ∧
    (8#32).toNat / 4 % 2 ^ Config.default.pcregsBits = 0 ∧
    (4#32).toNat / 4 % 2 ^ Config.default.pcregsBits ≠ 0 := by decide

/-- OneCommandIsTheStatusWriteThatCarriesIt: the lowest and the highest command, reserved bits
beside them. -/
theorem witness_OneCommandIsTheStatusWriteThatCarriesIt :
    (∀ d ∈ Command.all, (0xFC000009#32 &&& 0xFFFFFFFF#32).getLsbD
      (d.bit State.reset.config.cmdBits) = decide (d = .clrHalt)) ∧
    (∀ d ∈ Command.all, (0x02000008#32 &&& 0xFF0000FF#32).getLsbD
      (d.bit State.reset.config.cmdBits) = decide (d = .setSig 7)) := by decide

/-- StepRunsTheDecodedOperation: a port request, a change of the environment, no request. -/
theorem witness_StepRunsTheDecodedOperation :
    (∃ (s : State) (p : PortWord) (rest : List Request) (i : Instr),
      s.requests = .port p :: rest ∧ decode s.config p = .ok i) ∧
    (∃ (s : State) (e : EnvEdit) (rest : List Request), s.requests = .env e :: rest) ∧
    (∃ s : State, s.requests = []) :=
  ⟨⟨State.reset.withFetchWord 32 1, PortWord.ofNat 1, [], .clrHalt, rfl, by decide⟩,
    ⟨{ State.reset with requests := [.env (.frozen true)] }, _, _, rfl⟩, ⟨State.reset, rfl⟩⟩

/-- NoOperationFailsFaultsOrIsRefused: a step that goes on with the highest selector in use, and one
that is refused with the lowest one that is not. -/
theorem witness_NoOperationFailsFaultsOrIsRefused :
    (∃ t, step (State.reset.withFetchWord 104 (13 * 2 ^ 96)) = .next t) ∧
    step (State.reset.withFetchWord 104 (14 * 2 ^ 96)) =
      .refused (.notAnOperation (.unknownFormat 14)) := ⟨⟨_, rfl⟩, rfl⟩

/-- StepKeepsTheRepresentation. -/
theorem witness_StepKeepsTheRepresentation :
    ∃ s t : State, s.Inv ∧ s.requests ≠ [] ∧ step s = .next t :=
  ⟨sample.withFetchWord 32 2, _, by decide, by decide, rfl⟩

/-- ReadAfterWriteAnswersTheMergedWord: the premises of both clauses, and a block with no word after
the program counter, which meets that of the first. -/
theorem witness_ReadAfterWriteAnswersTheMergedWord :
    sample.Inv ∧ (Instr.wrPcreg 1 0xDEADBEEF 0xFF0000FF).wf sample.config = true ∧
    ({ State.reset with config := { Config.default with pcregsBits := 0 } } : State).Inv := by decide

/-- OtherSecondaryWordsArePlainStorage: with another word of the bank left to compare. -/
theorem witness_OtherSecondaryWordsArePlainStorage :
    sample.Inv ∧ (Instr.wrPcreg 1 0 0).wf sample.config = true ∧
    0 < sample.config.pcregsCount ∧ 0 ≠ (1#30).toNat := by decide

/-- LocalReadAnswersTheFourBytes: one state for each byte order. -/
theorem witness_LocalReadAnswersTheFourBytes :
    sample.config.lmByteOrder = .big ∧
    { sample.config with lmByteOrder := .little }.lmByteOrder = .little := by decide

/-- LocalWriteMergesIntoTheWord: both byte orders, and a byte below and one above the word. -/
theorem witness_LocalWriteMergesIntoTheWord :
    sample.Inv ∧ sample.config.lmByteOrder = .big ∧
    ({ sample with config := { sample.config with lmByteOrder := .little } } : State).Inv ∧
    (0 < 8192 ∧ 0 < 4 * (1#11).toNat) ∧ (8191 < 8192 ∧ 4 * (0x7FE#11).toNat + 4 ≤ 8191) := by
  decide

/-- BusWordReachesMainMostSignificantByteFirst: at the top word of local memory. -/
theorem witness_BusWordReachesMainMostSignificantByteFirst :
    sample.Inv ∧ sample.config.lmByteOrder = .big ∧ 2 ≤ sample.config.mainMemBits ∧
    (sample.memAddr &&& 0x1FFF#32).toNat = 4 * (0x7FF#11).toNat := by decide

/-- AccessorReadsBackWhateverTheXor: two addresses that differ modulo the size, and the last address
of the space. -/
theorem witness_AccessorReadsBackWhateverTheXor :
    sample.Inv ∧ 0x800001 % 2 ^ sample.config.mainMemBits ≠ 0 % 2 ^ sample.config.mainMemBits ∧
    2 ≤ sample.config.mainMemBits ∧ 0x7FFFFF < 2 ^ sample.config.mainMemBits := by decide

/-- SignalClearsClearTheirOneSignal: SIG0 and SIG7. -/
theorem witness_SignalClearsClearTheirOneSignal :
    [Instr.clrSig0, .clrSig1, .clrSig2, .clrSig3, .clrSig4, .clrSig5, .clrSig6,
      .clrSig7][(0 : Fin 8).val]? = some .clrSig0 ∧
    [Instr.clrSig0, .clrSig1, .clrSig2, .clrSig3, .clrSig4, .clrSig5, .clrSig6,
      .clrSig7][(7 : Fin 8).val]? = some .clrSig7 := by decide

/-- SignalSetsSetTheirOneSignal: SIG1 and SIG7. -/
theorem witness_SignalSetsSetTheirOneSignal :
    ((1 : Fin 8) ≠ 0 ∧ [Instr.setSig0, .setSig1, .setSig2, .setSig3, .setSig4, .setSig5, .setSig6,
      .setSig7][(1 : Fin 8).val]? = some .setSig1) ∧
    ((7 : Fin 8) ≠ 0 ∧ [Instr.setSig0, .setSig1, .setSig2, .setSig3, .setSig4, .setSig5, .setSig6,
      .setSig7][(7 : Fin 8).val]? = some .setSig7) := by decide

/-- SetSigZeroRaisesTheInterruptWhenAudioIsOn: both values of the flag. -/
theorem witness_SetSigZeroRaisesTheInterruptWhenAudioIsOn :
    (audioOn State.reset).config.audioSignalEnabled = true ∧
    State.reset.config.audioSignalEnabled = false := by decide

/-- InterruptCommandsCallTheController and StatusWriteClearsThenSetsThenCalls: both values of the
parameter. -/
theorem witness_InterruptCommandsCallTheController :
    State.reset.config.intrSetCall = .schedulePending ∧
    { State.reset.config with intrSetCall := .raise }.intrSetCall = .raise := by decide

/-- StatusWriteClearsThenSetsThenCalls: with a bit that holds no flag. -/
theorem witness_StatusWriteClearsThenSetsThenCalls :
    (∃ (s : State) (v m w : Word) (b : FlagBits) (p : CmdBits), w = v &&& m ∧
      b = s.config.flagBits ∧ p = s.config.cmdBits ∧ s.config.intrSetCall = .schedulePending) ∧
    (∀ f ∈ [Flag.halt, .broke, .sstep, .intrOnBreak, .sig 0, .sig 1, .sig 2, .sig 3, .sig 4, .sig 5,
      .sig 6, .sig 7], flagBit State.reset.config.flagBits f ≠ 2) :=
  ⟨⟨State.reset, 0x201, 0xFF00, 0x200, _, _, by decide, rfl, rfl, rfl⟩, by decide⟩

/-- ReservedCommandBitsAreIgnored: words that differ in every reserved bit. -/
theorem witness_ReservedCommandBitsAreIgnored :
    (∀ c ∈ Command.all,
      (0xFC00000A#32 &&& 0xFFFFFFFF#32).getLsbD (c.bit State.reset.config.cmdBits) =
        (0x00000002#32 &&& 0x000000FF#32).getLsbD (c.bit State.reset.config.cmdBits)) ∧
    State.reset.config.cmdBits = .spec ∧
    (0xFC00000A#32 &&& 0xFFFFFFFF#32) &&& 0x03FFFFF7#32 =
      (0x00000002#32 &&& 0x000000FF#32) &&& 0x03FFFFF7#32 := by decide

/-- GatesDecideWhetherAStatusWriteDispatches: each clause, the second with every bit but the two,
the third with an unlocked task and CLR_HALT and with a yielded one and the word 0. -/
theorem witness_GatesDecideWhetherAStatusWriteDispatches :
    ((awaiting 0).taskLocked = true ∧ ∃ e ∈ (awaiting 0).timeline, e.kind = .spInt) ∧
    (State.reset.taskLocked = false ∧
      (0xFFFFFFFA#32 &&& 0xFFFFFFFF#32).getLsbD State.reset.config.cmdBits.clrHalt = false ∧
      (0xFFFFFFFA#32 &&& 0xFFFFFFFF#32).getLsbD State.reset.config.cmdBits.clrBroke = false) ∧
    (State.reset.taskLocked = false ∧
      (1#32 &&& 1#32).getLsbD State.reset.config.cmdBits.clrHalt = true) ∧
    ((∀ e ∈ ({ State.reset with taskLocked := true } : State).timeline, e.kind ≠ .spInt) ∧
      ({ State.reset with taskLocked := true } : State).taskLocked = true) := by decide

/-- TransferInCopiesRowsAndNothingElse: the length word 0x00801007 at the top of local memory; its
last byte has no later byte on its place, and a byte that the transfer does not reach. -/
theorem witness_TransferInCopiesRowsAndNothingElse :
    sample.Inv ∧ 8 = ((7#12).toNat ||| 7) + 1 ∧ 2 = (1#8).toNat + 1 ∧
    0x1FFC = (sample.memAddr &&& 0x1FFF#32).toNat ∧
    0x7FFFFC = (sample.dramAddr &&& 0xFFFFFF#32).toNat ∧
    (∀ j' i', j' < 2 → i' < 8 → 1 * 8 + 7 < j' * 8 + i' →
      (0x1FFC + j' * 8 + i') % 8192 ≠ (0x1FFC + 1 * 8 + 7) % 8192) ∧
    (∀ j, j < 2 → ∀ i, i < 8 → (0x1FFC + j * 8 + i) % 8192 ≠ 0x1FFB) := by
  refine ⟨by decide, by decide, by decide, by decide, by decide, ?_, by decide⟩
  intro j' i' h1 h2 h3
  omega

/-- TransferOutCopiesRowsAndNothingElse: the length word 0x00402003 across the end of main memory;
its last byte, and a byte between two rows. -/
theorem witness_TransferOutCopiesRowsAndNothingElse :
    sample.Inv ∧ 4 = (3#12).toNat + 1 ∧ 3 = (2#8).toNat + 1 ∧
    0x800000 = 2 ^ sample.config.mainMemBits ∧
    0x1FFC = (sample.memAddr &&& 0x1FFF#32).toNat ∧
    0x7FFFFC = (sample.dramAddr &&& 0xFFFFFF#32).toNat ∧
    (∀ j' i', j' < 3 → i' < 4 → 2 * 4 + 3 < j' * 4 + i' →
      (0x7FFFFC + j' * (4 + 4) + i') % 0x800000 ≠ (0x7FFFFC + 2 * (4 + 4) + 3) % 0x800000) ∧
    (∀ j, j < 3 → ∀ i, i < 4 → (0x7FFFFC + j * (4 + 4) + i) % 0x800000 ≠ 0 % 0x800000) := by
  refine ⟨by decide, by decide, by decide, by decide, by decide, by decide, ?_, by decide⟩
  intro j' i' h1 h2 h3
  omega

/-- TransferInThenOutRestoresMainMemory: several rows (V4.12), one row with any length (V4.14), and
the largest transfer that fits. -/
theorem witness_TransferInThenOutRestoresMainMemory :
    sample.Inv ∧
    (((0x0100300F#32).toNat / 4096 % 256 + 1) * (((0x0100300F#32).toNat % 4096 ||| 7) + 1) ≤ 8192 ∧
      (0x0100300F#32).toNat % 8 = 7) ∧
    (((3#32).toNat / 4096 % 256 + 1) * (((3#32).toNat % 4096 ||| 7) + 1) ≤ 8192 ∧
      (3#32).toNat / 4096 % 256 = 0) ∧
    (((0x1FFF#32).toNat / 4096 % 256 + 1) * (((0x1FFF#32).toNat % 4096 ||| 7) + 1) = 8192 ∧
      (0x1FFF#32).toNat % 8 = 7) := by decide

/-- ExecutorCallAppliesItsAnswer: an empty answer, an answer that ends in a change of each kind, and a
script that is used up. -/
theorem witness_ExecutorCallAppliesItsAnswer :
    sample.execScript = [] :: [] ∧ sample.Inv ∧
    (∀ e ∈ [ExecEdit.env (.frozen true), .env (.fbProtected true), .env (.rasterIntr true),
        .env (.spPending true), .env .fireDpInt, .env (.main 0x7FFFFF 9), .schedule ⟨.spInt, 3⟩,
        .unschedule .spInt, .ctrl .semaphore 7, .pr 1 8, .lm 0x1FFF 9],
      ({ sample with execScript := [[.ctrl .status 3, e]] } : State).Inv ∧
      ({ sample with execScript := [[.ctrl .status 3, e]] } : State).execScript =
        ([.ctrl .status 3] ++ [e]) :: []) ∧
    State.reset.execScript = [] := by decide

/-- Both cases of an event taken off the timeline, with an event of the other kind before it. -/
theorem witness_Withdrawn :
    (∃ (t : State) (before : List Event) (e : Event) (after : List Event), e.kind = .spInt ∧
      (∀ e' ∈ before, e'.kind ≠ .spInt) ∧ t.timeline = before ++ e :: after) ∧
    (∃ t : State, t.timeline ≠ [] ∧ ∀ e ∈ t.timeline, e.kind ≠ .spInt) :=
  ⟨⟨{ sample with timeline := [⟨.dpInt, 0⟩, ⟨.spInt, 1⟩] }, [⟨.dpInt, 0⟩], ⟨.spInt, 1⟩, [],
    by decide, by decide, rfl⟩,
    ⟨{ sample with timeline := [⟨.dpInt, 0⟩] }, by decide, by decide⟩⟩

/-- The two clauses of a changed byte or word: another address to compare, wrapping included. -/
theorem witness_EditDone_others :
    0x2000 % 8192 ≠ 0x1FFF % 8192 ∧ 0x800000 % 2 ^ sample.config.mainMemBits ≠
      0x7FFFFF % 2 ^ sample.config.mainMemBits ∧
    2 % sample.config.pcregsCount ≠ 1 % sample.config.pcregsCount := by decide

/-- GraphicsPathWhenNotFrozen: the check skipped while frozen, and the check passed. -/
theorem witness_GraphicsPathWhenNotFrozen :
    (({ sample with
      frozen := true
      config := { sample.config with skipFreezeCheck := true } } : State).config.skipFreezeCheck =
        true) ∧ sample.frozen = false := by decide

/-- FrozenGraphicsTaskIsDeferred. -/
theorem witness_FrozenGraphicsTaskIsDeferred :
    ({ sample with frozen := true } : State).config.skipFreezeCheck = false ∧
    ({ sample with frozen := true } : State).frozen = true := by decide

/-- PostRunLocksAndSchedulesWhileRunning: neither flag, HALT alone, BROKE alone. -/
theorem witness_PostRunLocksAndSchedulesWhileRunning :
    ((start 0 []).status.getLsbD (start 0 []).config.flagBits.halt = false ∧
      (start 0 []).status.getLsbD (start 0 []).config.flagBits.broke = false) ∧
    (start 1 []).status.getLsbD (start 1 []).config.flagBits.halt = true ∧
    (start 2 []).status.getLsbD (start 2 []).config.flagBits.broke = true := by decide

/-- DeliveryRaisesIfIntrOnBreakIsSet: with an event of the other kind before it and a second
completion event after it, INTR_ON_BREAK clear and set. -/
theorem witness_DeliveryRaisesIfIntrOnBreakIsSet :
    ∃ (s : State) (e : Event) (before after : List Event), e.kind = .spInt ∧
      (∀ e' ∈ before, e'.kind ≠ .spInt) ∧ s.timeline = before ++ e :: after ∧
      false = s.status.getLsbD s.config.flagBits.intrOnBreak ∧
      true = ({ s with status := 0x40 } : State).status.getLsbD s.config.flagBits.intrOnBreak :=
  ⟨{ sample with timeline := [⟨.dpInt, 0⟩, ⟨.spInt, 1⟩, ⟨.spInt, 2⟩] }, ⟨.spInt, 1⟩, [⟨.dpInt, 0⟩],
    [⟨.spInt, 2⟩], by decide, by decide, rfl, by decide, by decide⟩

/-- RedispatchTakesThePathOfTheTag: stopped, and running with each kind of tag. -/
theorem witness_RedispatchTakesThePathOfTheTag :
    (start 2 []).status.getLsbD (start 2 []).config.flagBits.broke = true ∧
    ((start 0 []).status.getLsbD (start 0 []).config.flagBits.halt = false ∧
      (start 0 []).status.getLsbD (start 0 []).config.flagBits.broke = false) ∧
    (tagged 1 (start 0 [])).lmWord 0xFC0 = 1 ∧ (tagged 2 (start 0 [])).lmWord 0xFC0 = 2 ∧
    ((tagged 3 (start 0 [])).lmWord 0xFC0 ≠ 1 ∧ (tagged 3 (start 0 [])).lmWord 0xFC0 ≠ 2) := by
  decide

/-- A halted state with tag 1, the raster stage frozen or not, and the freeze check skipped or
not. -/
def gfxReady (frozen skip : Bool) : State :=
  { State.reset with
    lm := [(0xFC3, 1)], frozen := frozen
    config := { Config.default with skipFreezeCheck := skip } }

/-- DispatchGatingProperty: a write and a re-dispatch request that find HALT set, an operation that
cannot dispatch. -/
theorem witness_DispatchGatingProperty :
    (∃ t, (State.reset.statusEffects (0x2000#32 &&& 0xFFFFFFFF#32)).status.getLsbD
        State.reset.config.flagBits.halt = true ∧
      exec (.wrStatus 0x2000 0xFFFFFFFF) State.reset = .next t) ∧
    (∃ t, (start 1 []).status.getLsbD (start 1 []).config.flagBits.halt = true ∧
      exec .redispatch (start 1 []) = .next t) ∧
    (∃ t, Instr.rdPc.mayDispatch = false ∧ exec .rdPc State.reset = .next t) :=
  ⟨⟨_, by decide, rfl⟩, ⟨_, by decide, rfl⟩, ⟨_, by decide, rfl⟩⟩

/-- DispatchGatingProperty, the fourth clause: the deferred state and the three that are not, and the
words CLR_HALT alone and every bit but SET_HALT. -/
theorem witness_DispatchGatingProperty_tag_one (frozen skip : Bool) :
    (gfxReady frozen skip).taskLocked = false ∧
    (gfxReady frozen skip).status.getLsbD (gfxReady frozen skip).config.flagBits.broke = false ∧
    (gfxReady frozen skip).lmWord 0xFC0 = 1 ∧ (gfxReady frozen skip).frozen = frozen ∧
    (gfxReady frozen skip).config.skipFreezeCheck = skip ∧
    ((1#32 &&& 1#32).getLsbD (gfxReady frozen skip).config.cmdBits.clrHalt = true ∧
      (1#32 &&& 1#32).getLsbD (gfxReady frozen skip).config.cmdBits.setHalt = false) ∧
    ((0xFFFFFFFD#32 &&& 0xFFFFFFFF#32).getLsbD (gfxReady frozen skip).config.cmdBits.clrHalt = true ∧
      (0xFFFFFFFD#32 &&& 0xFFFFFFFF#32).getLsbD (gfxReady frozen skip).config.cmdBits.setHalt =
        false) := by
  cases frozen <;> cases skip <;> decide

/-- OneDispatchRunsAndSchedulesAtMostOnce and DispatchKeepsHighPcBitsAndLocksWhileRunning: a dispatch
that runs, with a bit outside the mask. -/
theorem witness_OneDispatchRunsAndSchedulesAtMostOnce :
    ∃ t, Instr.dispatchGfx ∈ [.dispatchGfx, .dispatchAudio, .dispatchOther 0] ∧
      exec .dispatchGfx (start 0 []) = .next t ∧ t.execCount ≠ (start 0 []).execCount ∧
      t.taskLocked = true ∧ (start 0 []).config.pcMask.getLsbD 12 = false :=
  ⟨_, by decide, rfl, by decide, by decide, by decide⟩

theorem witness_DispatchKeepsHighPcBitsAndLocksWhileRunning :
    ∃ t, Instr.dispatchOther 7 ∈ [.dispatchGfx, .dispatchAudio, .dispatchOther 7] ∧
      exec (.dispatchOther 7) (start 0 []) = .next t ∧ t.execCount ≠ (start 0 []).execCount :=
  ⟨_, by decide, rfl, by decide⟩

/-- PathsToTheInterruptControllerAreComplete: one operation for each of the three calls. -/
theorem witness_PathsToTheInterruptControllerAreComplete :
    State.reset.config.intrSetCall = .schedulePending ∧
    (∃ t, exec .setIntr State.reset = .next t ∧
      t.calls = State.reset.calls ++ [.schedulePendingInterrupt .sp]) ∧
    (∃ t, exec .clrIntr State.reset = .next t ∧
      t.calls = State.reset.calls ++ [.clearPendingInterrupt .sp]) ∧
    (∃ t, exec .deliverSpInt (awaiting 0x40) = .next t ∧
      t.calls = (awaiting 0x40).calls ++ [.raiseInterrupt .sp]) :=
  ⟨by decide, ⟨_, rfl, by decide⟩, ⟨_, rfl, by decide⟩, ⟨_, rfl, by decide⟩⟩

/-- OnlyTheseOperationsChangeTheseState and StatusChangesOnlyInItsFlagsAndBrokeOnlyFalls: operations
that run no executor and change local memory, main memory, the program counter, a DMA register, the
lock, and STATUS. -/
theorem witness_OnlyTheseOperationsChangeTheseState :
    (∃ t, exec (.wrMem 0 1 1) State.reset = .next t ∧ t.execCount = State.reset.execCount ∧
      t.lm ≠ State.reset.lm) ∧
    (∃ t, exec (.dmaToMain 0 0 0) { State.reset with lm := [(0, 1)] } = .next t ∧
      t.execCount = State.reset.execCount ∧ t.main ≠ State.reset.main) ∧
    (∃ t, exec (.wrPc 1 1) State.reset = .next t ∧ t.execCount = State.reset.execCount ∧
      t.pc ≠ State.reset.pc) ∧
    (∃ t, exec .reset { State.reset with dmaBusy := 1 } = .next t ∧
      t.execCount = State.reset.execCount ∧ t.dmaBusy ≠ 1) ∧
    (∃ t, exec .postrun (start 0 []) = .next t ∧ t.execCount = (start 0 []).execCount ∧
      t.taskLocked ≠ (start 0 []).taskLocked) :=
  ⟨⟨_, rfl, by decide, by decide⟩, ⟨_, rfl, by decide, by decide⟩, ⟨_, rfl, by decide, by decide⟩,
    ⟨_, rfl, by decide, by decide⟩, ⟨_, rfl, by decide, by decide⟩⟩

/-- StatusChangesOnlyInItsFlagsAndBrokeOnlyFalls: a command with BROKE set before and after it, and
the lowest and the highest bit that holds no flag. -/
theorem witness_StatusChangesOnlyInItsFlagsAndBrokeOnlyFalls :
    (∃ t, exec .setSig7 (start 3 []) = .next t ∧ t.execCount = (start 3 []).execCount ∧
      Instr.setSig7 ≠ .reset ∧ t.status.getLsbD (start 3 []).config.flagBits.broke = true ∧
      (start 3 []).config.flagBits = .spec) ∧
    (∀ f ∈ [Flag.halt, .broke, .sstep, .intrOnBreak, .sig 0, .sig 1, .sig 2, .sig 3, .sig 4, .sig 5,
      .sig 6, .sig 7], flagBit .spec f ≠ 2 ∧ flagBit .spec f ≠ 31) :=
  ⟨⟨_, rfl, by decide, by decide, by decide, by decide⟩, by decide⟩

/-- ConfigurationIsConstantAndRecordsStay. -/
theorem witness_ConfigurationIsConstantAndRecordsStay :
    ∃ t, exec .rdSemaphore State.reset = .next t ∧ Instr.rdSemaphore.mayDispatch = false :=
  ⟨_, rfl, by decide⟩

/-- HaltGatesNothingButDispatch: an operation that stores, transfers and is none of the three. -/
theorem witness_HaltGatesNothingButDispatch :
    ∃ t, (Instr.wrRdLen 0 0).mayDispatch = false ∧ Instr.wrRdLen 0 0 ≠ .rdStatus ∧
      Instr.wrRdLen 0 0 ≠ .deliverSpInt ∧ Instr.wrRdLen 0 0 ≠ .reset ∧
      exec (.wrRdLen 0 0) sample = .next t :=
  ⟨_, by decide, by decide, by decide, by decide, rfl⟩

/-- AtMostOneCompletionEventIsOutstanding: a write that dispatches, schedules and locks; an operation
that calls no executor where the script is empty; a re-dispatch request with no completion event
outstanding. -/
theorem witness_AtMostOneCompletionEventIsOutstanding :
    (∃ t, (start 1 []).SingleCompletion ∧ (start 1 []).NextAnswerLeavesCompletion ∧
      (∀ tag, Instr.clrHalt ∉ [.reset, .redispatch, .postrun, .dispatchGfx, .dispatchAudio,
        .dispatchOther tag]) ∧
      exec .clrHalt (start 1 []) = .next t ∧ t.outstanding .spInt = 1) ∧
    (∃ t, State.reset.SingleCompletion ∧ exec .setSig7 State.reset = .next t ∧
      t.execCount = State.reset.execCount ∧ State.reset.execScript = []) ∧
    (∃ t, (start 0 []).SingleCompletion ∧ (start 0 []).outstanding .spInt = 0 ∧
      (start 0 []).NextAnswerLeavesCompletion ∧ exec .redispatch (start 0 []) = .next t ∧
      t.outstanding .spInt = 1) :=
  ⟨⟨_, ⟨by decide, by decide⟩, by simp [State.NextAnswerLeavesCompletion, LeavesCompletion, start],
      by simp, rfl, by decide⟩,
    ⟨_, ⟨by decide, by decide⟩, rfl, by decide, rfl⟩,
    ⟨_, ⟨by decide, by decide⟩, by decide,
      by simp [State.NextAnswerLeavesCompletion, LeavesCompletion, start], rfl, by decide⟩⟩

end Sys2Proof.Tests
end

/-! PROOF. What 00_scope.md says of every operation and every step: a step runs the operation that
the next request carries (R9), no operation can fail (R10), and the parameters are constant while
the record of calls only grows (R6, R246, R284). -/

namespace Sys2Proof.Machine

/-! ## Which port words decode -/

/-- The decoder rejects a port word only for its selector. -/
theorem decode_cases (c : Config) (p : PortWord) :
    (∃ i, decode c p = .ok i) ∨
      (Format.ofSel p.sel = none ∧ decode c p = .error (.unknownFormat p.sel)) := by
  unfold decode
  cases Format.ofSel p.sel with
  | none => exact .inr ⟨rfl, rfl⟩
  | some f => left; cases f <;> exact ⟨_, rfl⟩

/-! ## One step, by the request at the front of the queue -/

section Step

variable {s : State} {rest : List Request}

theorem step_of_nil (h : s.requests = []) : step s = .next s := by
  unfold step
  rw [h]

theorem step_of_env {e : EnvEdit} (h : s.requests = .env e :: rest) :
    step s = .next ({ s with requests := rest }.applyEnv e) := by
  unfold step
  rw [h]

theorem step_of_port_ok {p : PortWord} {i : Instr} (h : s.requests = .port p :: rest)
    (hd : decode s.config p = .ok i) : step s = exec i { s with requests := rest } := by
  unfold step
  simp only [h, hd]

theorem step_of_port_error {p : PortWord} {r : Reject} (h : s.requests = .port p :: rest)
    (hd : decode s.config p = .error r) : step s = .refused (.notAnOperation r) := by
  unfold step
  simp only [h, hd]

end Step

/-- Settles O8: one equation of `step` for each kind of request. -/
theorem stepRunsTheDecodedOperation : Obligations.StepRunsTheDecodedOperation :=
  ⟨fun _ _ _ _ h hd => step_of_port_ok h hd, fun _ _ _ h => step_of_env h,
    fun _ h => step_of_nil h⟩

/-! ## No operation fails -/

/-- Every arm of `exec` answers a next state (R10). -/
theorem exec_total (i : Instr) (s : State) : ∃ t, exec i s = .next t := by
  cases i <;> exact ⟨_, rfl⟩

/-- Settles O9: operations are total, and a port word that decodes to none has a selector that names
no format. -/
theorem noOperationFailsFaultsOrIsRefused : Obligations.NoOperationFailsFaultsOrIsRefused := by
  refine ⟨exec_total, fun s => ?_⟩
  match h : s.requests with
  | [] => exact .inl ⟨_, step_of_nil h⟩
  | .env e :: rest => exact .inl ⟨_, step_of_env h⟩
  | .port p :: rest =>
    rcases decode_cases s.config p with ⟨i, hd⟩ | ⟨hsel, hd⟩
    · rw [step_of_port_ok h hd]
      exact .inl (exec_total i _)
    · exact .inr ⟨p, rest, rfl, Format.ofSel_eq_none hsel, step_of_port_error h hd⟩

/-! ## The configuration and the record -/

/-- From `s` to `t` the parameters and the queue stay and the record of calls only grows. -/
structure RecordExtends (s t : State) : Prop where
  config : t.config = s.config
  requests : t.requests = s.requests
  calls : ∃ new, t.calls = s.calls ++ new

theorem RecordExtends.trans {s t u : State} (h : RecordExtends s t) (h' : RecordExtends t u) :
    RecordExtends s u := by
  obtain ⟨new, hn⟩ := h.calls
  obtain ⟨new', hn'⟩ := h'.calls
  exact ⟨h'.config.trans h.config, h'.requests.trans h.requests, new ++ new',
    by rw [hn', hn, List.append_assoc]⟩

theorem DispatchFrame.recordExtends {s t : State} (h : DispatchFrame s t) : RecordExtends s t := by
  obtain ⟨new, hn, _⟩ := h.calls
  exact ⟨h.config, h.requests, new, hn⟩

theorem State.postRun_recordExtends (s : State) : RecordExtends s s.postRun := by
  rcases s.postRun_cases with ⟨_, e⟩ | ⟨_, e⟩ <;> rw [e]
  · exact ⟨rfl, rfl, _, rfl⟩
  · exact ⟨rfl, rfl, [], (List.append_nil _).symm⟩

theorem State.statusEffects_recordExtends (s : State) (w : Word) :
    RecordExtends s (s.statusEffects w) := by
  rw [s.statusEffects_eq w]
  exact ⟨rfl, rfl, _, by simp only [List.append_assoc]; rfl⟩

theorem State.applyStatusWrite_recordExtends (s : State) (w : Word) :
    RecordExtends s (s.applyStatusWrite w) :=
  (s.statusEffects_recordExtends w).trans (State.gate_frame _ _).recordExtends

theorem State.deliveryLock_eq (s : State) :
    s.deliveryLock = { s with taskLocked := s.taskLocked && !s.config.deliveryClearsLock } := by
  unfold State.deliveryLock
  cases s.config.deliveryClearsLock <;> simp

/-- What every plain operation leaves alone; the only call it can record is the interrupt that a
delivered completion event raises (R248). -/
theorem exec_plain_frame {i : Instr} {s t : State} (hm : i.mayDispatch = false)
    (h : exec i s = .next t) :
    t.config = s.config ∧ t.requests = s.requests ∧
    t.execCount = s.execCount ∧ t.execScript = s.execScript ∧
    (t.calls = s.calls ∨ i = .deliverSpInt ∧ t.calls = s.calls ++ [.raiseInterrupt .sp]) := by
  cases i with
  | deliverSpInt =>
    injection h with h
    subst h
    simp only [State.deliveryLock_eq]
    cases s.flag .intrOnBreak <;> simp
  | wrRdLen v m | wrWrLen v m | dmaToLocal k c l | dmaToMain k c l =>
    injection h with h
    subst h
    simp [State.afterRdLen, State.afterWrLen, State.transferToLocal, State.transferToMain]
  | rdMemAddr | rdDramAddr | rdRdLen | rdWrLen | rdStatus | rdDmaFull | rdDmaBusy | rdPc
  | rdPcreg k | rdMem a | wrMemAddr v m | wrDramAddr v m | wrDmaFull v m | wrDmaBusy v m
  | wrSemaphore v m | wrPc v m | wrPcreg k v m | wrMem a v m | rdSemaphore | reset =>
    injection h with h
    subst h
    simp
  | _ => exact absurd hm Bool.noConfusion

/-- Settles O55, by what each kind of operation can do (`exec_cases`). -/
theorem configurationIsConstantAndRecordsStay :
    Obligations.ConfigurationIsConstantAndRecordsStay := by
  intro i s t h
  cases hm : i.mayDispatch with
  | false =>
    obtain ⟨hc, hq, hn, hs, hcalls⟩ := exec_plain_frame hm h
    refine ⟨hc, hq, ?_, fun _ => ⟨hn, hs⟩⟩
    rcases hcalls with e | ⟨_, e⟩
    · exact ⟨[], by rw [e, List.append_nil]⟩
    · exact ⟨_, e⟩
  | true =>
    have hr : RecordExtends s t := by
      rcases exec_cases h with hf | ⟨_, rfl⟩ | ⟨w, rfl, _⟩ | ⟨hf, _⟩
      · exact absurd (hm.symm.trans hf) Bool.noConfusion
      · exact s.postRun_recordExtends
      · exact s.applyStatusWrite_recordExtends w
      · exact hf.recordExtends
    exact ⟨hr.config, hr.requests, hr.calls, Bool.noConfusion⟩

end Sys2Proof.Machine

/-! PROOF. The state of 10_state.md: every step keeps the representation (R31, R33, R65, R66), what
power-on and RESET leave (R37), and which operations change which part of the state when no executor
runs (R27 to R29, R32, R33, R35). -/

namespace Sys2Proof.Machine

/-! ## The representation is kept -/

section Representation

variable {s : State}

theorem State.Inv.postRun (h : s.Inv) : s.postRun.Inv := by
  rcases s.postRun_cases with ⟨_, e⟩ | ⟨_, e⟩ <;> rw [e] <;> exact h

theorem State.Inv.runGraphics (h : s.Inv) : s.runGraphics.Inv := by
  have hr : (s.unprotectFramebuffers.runMasked .primary).Inv :=
    State.Inv.runMasked (s := s.unprotectFramebuffers) h .primary
  exact State.Inv.postRun (hr.congr (by simp) (by simp) (by simp) (by simp))

theorem State.Inv.dispatchGraphics (h : s.Inv) : s.dispatchGraphics.Inv := by
  rcases s.dispatchGraphics_cases with ⟨_, _, e⟩ | ⟨_, e⟩ | ⟨_, _, e⟩ <;> rw [e]
  · exact h
  · exact h.runGraphics
  · exact State.Inv.runGraphics (s := s.record (.isFrozen false)) h

theorem State.Inv.dispatchAudio (h : s.Inv) : s.dispatchAudio.Inv := (h.runMasked _).postRun

theorem State.Inv.dispatchOther (h : s.Inv) : s.dispatchOther.Inv := (h.runMasked _).postRun

theorem State.Inv.dispatch (h : s.Inv) : s.dispatch.Inv := by
  rcases s.dispatch_cases with ⟨e, _⟩ | ⟨e, _⟩ | ⟨e, _⟩ <;> rw [e]
  · exact h.dispatchGraphics
  · exact h.dispatchAudio
  · exact h.dispatchOther

theorem State.Inv.gate (h : s.Inv) (c : Bool) : (s.gate c).Inv := by
  rcases s.gate_cases c with ⟨e, _⟩ | ⟨e, _⟩ <;> rw [e]
  · exact h
  · exact h.dispatch

theorem State.Inv.applyStatusWrite (h : s.Inv) (w : Word) : (s.applyStatusWrite w).Inv := by
  have he : (s.statusEffects w).Inv := by rw [s.statusEffects_eq w]; exact h
  exact he.gate _

theorem State.Inv.exec_plain {i : Instr} {t : State} (h : s.Inv) (hm : i.mayDispatch = false)
    (he : exec i s = .next t) : t.Inv := by
  cases i with
  | rdMemAddr | rdDramAddr | rdRdLen | rdWrLen | rdStatus | rdDmaFull | rdDmaBusy | rdPc
  | rdPcreg k | rdMem a | rdSemaphore | wrDmaFull v m | wrDmaBusy v m =>
    cases he
    exact h
  | wrMemAddr v m | wrDramAddr v m =>
    cases he
    exact h.setCtrl _ _
  | wrSemaphore v m =>
    cases he
    exact (h.setCtrl _ _).setCtrl _ _
  | wrRdLen v m =>
    cases he
    exact (h.setCtrl _ _).transferToLocal _ _ _
  | wrWrLen v m =>
    cases he
    exact (h.setCtrl _ _).transferToMain _ _ _
  | wrPc v m | wrPcreg k v m =>
    cases he
    exact h.setPr _ _
  | wrMem a v m =>
    cases he
    exact h.lmWriteWord _ _
  | dmaToLocal k c l =>
    cases he
    exact h.transferToLocal k c l
  | dmaToMain k c l =>
    cases he
    exact h.transferToMain k c l
  | deliverSpInt =>
    cases he
    simp only [State.deliveryLock_eq]
    split <;> exact h
  | reset =>
    cases he
    exact h.resetBlock
  | _ => exact absurd hm Bool.noConfusion

/-- Every operation keeps the representation, whatever an executor it calls does. -/
theorem State.Inv.exec {i : Instr} {t : State} (h : s.Inv) (he : exec i s = .next t) : t.Inv := by
  rcases exec_cases he with
    hm | ⟨_, rfl⟩ | ⟨w, rfl, _⟩ | ⟨_, rfl | rfl | ⟨tag, rfl⟩ | rfl⟩
  · exact h.exec_plain hm he
  · exact h.postRun
  · exact h.applyStatusWrite w
  all_goals cases he
  · exact h.dispatchGraphics
  · exact h.dispatchAudio
  · exact h.dispatchOther
  · split
    · exact h.dispatch
    · exact h

end Representation

/-- Settles O10, by the kind of the request that the step takes. -/
theorem stepKeepsTheRepresentation : Obligations.StepKeepsTheRepresentation := by
  intro s t h hs
  match hq : s.requests with
  | [] =>
    rw [step_of_nil hq] at hs
    cases hs
    exact h
  | .env e :: rest =>
    rw [step_of_env hq] at hs
    cases hs
    exact State.Inv.applyEnv (s := { s with requests := rest }) h e
  | .port p :: rest =>
    rcases decode_cases s.config p with ⟨i, hd⟩ | ⟨_, hd⟩
    · rw [step_of_port_ok hq hd] at hs
      exact State.Inv.exec (s := { s with requests := rest }) h hs
    · rw [step_of_port_error hq hd] at hs
      cases hs

/-- Settles O11: nothing is listed in either memory or in the secondary bank. -/
theorem resetMeetsTheRepresentation : Obligations.ResetMeetsTheRepresentation := by
  unfold Obligations.ResetMeetsTheRepresentation
  decide

/-! ## Power-on and RESET -/

/-- The power-on state is what RESET makes of itself, so every state after a reset is a
`resetBlock`. -/
theorem State.resetBlock_reset : State.reset.resetBlock = State.reset := rfl

theorem State.resetBlock_lmRead (s : State) (a : Nat) : s.resetBlock.lmRead a = 0 := rfl

theorem State.resetBlock_pr (s : State) (k : Nat) : s.resetBlock.pr k = 0 := by
  unfold State.pr
  split <;> rfl

/-- STATUS after RESET, bit by bit. -/
theorem State.resetBlock_status_onlyBit (s : State) :
    OnlyBit s.config.flagBits.halt true 0 s.resetBlock.status := by
  intro i hi
  rw [State.resetBlock_status, flagMask_getLsbD _ _ hi]
  by_cases h : i = s.config.flagBits.halt <;> simp [h, flagBit]

/-- Settles O12: both ways into the reset state give a `resetBlock`, read off field by field. -/
theorem powerOnAndResetLeaveHaltAloneAndZeros :
    Obligations.PowerOnAndResetLeaveHaltAloneAndZeros := by
  refine ⟨fun t ht => ?_, fun s => ⟨s.resetBlock, rfl, rfl⟩⟩
  obtain ⟨s, rfl⟩ : ∃ s : State, s.resetBlock = t := by
    rcases ht with rfl | ⟨s, hs⟩
    · exact ⟨State.reset, State.resetBlock_reset⟩
    · cases hs
      exact ⟨s, rfl⟩
  refine ⟨s.resetBlock_lmRead, rfl, rfl, rfl, rfl, rfl, rfl, rfl, s.resetBlock_status_onlyBit,
    fun hb => ?_, s.resetBlock_pr, rfl⟩
  rw [State.resetBlock_status, show s.config.flagBits = .spec from hb]
  decide

/-! ## What an operation that calls no executor changes -/

/-- A dispatching operation that called no executor: the post-run step, or at most the effects of a
word delivered to STATUS and the one question of a deferral (R250). -/
theorem exec_cases_of_no_run {i : Instr} {s t : State} (h : exec i s = .next t)
    (hn : t.execCount = s.execCount) :
    i.mayDispatch = false ∨ (i = .postrun ∧ t = s.postRun) ∨
    ∃ u, (u = s ∨ ∃ w, u = s.statusEffects w) ∧ (t = u ∨ t = u.record (.isFrozen true)) := by
  rcases exec_cases h with hm | hp | ⟨w, rfl, _⟩ | ⟨hf, _⟩
  · exact .inl hm
  · exact .inr (.inl hp)
  · have hw : (s.statusEffects w).execCount = s.execCount := by rw [s.statusEffects_eq w]
    exact .inr (.inr ⟨_, .inr ⟨w, rfl⟩, (State.gate_frame _ _).deferred (hn.trans hw.symm)⟩)
  · exact .inr (.inr ⟨s, .inl rfl, hf.deferred hn⟩)

/-- From `s` to `t` both memories, the program counter and the two DMA registers stay. -/
structure StorageStays (s t : State) : Prop where
  lm : t.lm = s.lm
  main : t.main = s.main
  pc : t.pc = s.pc
  dmaFull : t.dmaFull = s.dmaFull
  dmaBusy : t.dmaBusy = s.dmaBusy

/-- A dispatching operation that calls no executor leaves all storage alone, and the lock unless it
is the post-run step (R35). -/
theorem exec_mayDispatch_storageStays {i : Instr} {s t : State} (hm : i.mayDispatch = true)
    (h : exec i s = .next t) (hn : t.execCount = s.execCount) :
    StorageStays s t ∧ (i = .postrun ∨ t.taskLocked = s.taskLocked) := by
  rcases exec_cases_of_no_run h hn with hf | ⟨hp, rfl⟩ | ⟨u, hu, ht⟩
  · exact absurd (hm.symm.trans hf) Bool.noConfusion
  · rcases s.postRun_cases with ⟨_, e⟩ | ⟨_, e⟩ <;> rw [e] <;>
      exact ⟨⟨rfl, rfl, rfl, rfl, rfl⟩, .inl hp⟩
  · have hsu : StorageStays s u ∧ u.taskLocked = s.taskLocked := by
      rcases hu with rfl | ⟨w, rfl⟩
      · exact ⟨⟨rfl, rfl, rfl, rfl, rfl⟩, rfl⟩
      · rw [s.statusEffects_eq w]
        exact ⟨⟨rfl, rfl, rfl, rfl, rfl⟩, rfl⟩
    obtain ⟨⟨hl, hmain, hp, hf, hb⟩, hk⟩ := hsu
    rcases ht with rfl | rfl <;> exact ⟨⟨hl, hmain, hp, hf, hb⟩, .inr hk⟩

theorem State.setCtrl_dma {r : CtrlReg} (s : State) (v : Word) (hf : r ≠ .dmaFull)
    (hb : r ≠ .dmaBusy) :
    (s.setCtrl r v).dmaFull = s.dmaFull ∧ (s.setCtrl r v).dmaBusy = s.dmaBusy := by
  have h1 := s.ctrl_setCtrl r .dmaFull v
  have h2 := s.ctrl_setCtrl r .dmaBusy v
  rw [if_neg hf] at h1
  rw [if_neg hb] at h2
  exact ⟨h1, h2⟩

theorem State.setCtrl_status {r : CtrlReg} (s : State) (v : Word) (h : r ≠ .status) :
    (s.setCtrl r v).status = s.status := by
  have h1 := s.ctrl_setCtrl r .status v
  rwa [if_neg h] at h1

/-- A well-formed index names a word of the secondary bank other than the program counter (R92). -/
theorem State.setPr_pc_of_wf {s : State} {k : BitVec 30} {v m : Word}
    (h : (Instr.wrPcreg k v m).wf s.config = true) (x : Word) : (s.setPr k.toNat x).pc = s.pc := by
  simp only [Instr.wf, pcregIndexOk, Bool.and_eq_true, bne_iff_ne, decide_eq_true_eq] at h
  obtain ⟨hk, hlt⟩ := h
  have hi : s.prIndex k.toNat ≠ 0 := by
    rw [State.prIndex, Nat.mod_eq_of_lt hlt]
    exact fun e => hk (BitVec.eq_of_toNat_eq e)
  rw [State.setPr, if_neg hi]

/-- Settles O53: a dispatching operation changes the lock at most (`exec_mayDispatch_storageStays`),
and each plain one is read off its own meaning. -/
theorem onlyTheseOperationsChangeTheseState : Obligations.OnlyTheseOperationsChangeTheseState := by
  intro i s t h hn
  cases hm : i.mayDispatch with
  | true =>
    obtain ⟨⟨hl, hmain, hp, hf, hb⟩, hk⟩ := exec_mayDispatch_storageStays hm h hn
    exact ⟨fun e => absurd hl e, fun e => absurd hmain e, fun e => absurd hp e,
      fun e => e.elim (absurd hf) (absurd hb), fun e => .inr (.inl (hk.resolve_right e))⟩
  | false =>
    cases i with
    | rdMemAddr | rdDramAddr | rdRdLen | rdWrLen | rdStatus | rdDmaFull | rdDmaBusy | rdPc
    | rdPcreg k | rdMem a | wrDmaFull v m | wrDmaBusy v m | wrPc v m | wrMem a v m | reset =>
      cases h
      simp
    | rdSemaphore | wrMemAddr v m | wrDramAddr v m | wrSemaphore v m =>
      cases h
      simp [State.maskCtrl, State.setCtrl_dma]
    | wrRdLen v m | wrWrLen v m | dmaToLocal k c l | dmaToMain k c l =>
      cases h
      simp [State.afterRdLen, State.afterWrLen, State.transferToLocal, State.transferToMain,
        State.maskCtrl, State.setCtrl_dma]
    | wrPcreg k v m =>
      cases h
      have hpc : (s.setPr k.toNat (maskedWrite (s.pr k.toNat) v m)).pc ≠ s.pc →
          (Instr.wrPcreg k v m).wf s.config = false :=
        fun e => Bool.eq_false_iff.2 fun hw => e (State.setPr_pc_of_wf hw _)
      exact ⟨by simp, by simp, fun e => .inr (.inr ⟨k, v, m, rfl, hpc e⟩), by simp, by simp⟩
    | deliverSpInt =>
      cases h
      simp only [State.deliveryLock_eq]
      cases hd : s.config.deliveryClearsLock <;> cases s.flag .intrOnBreak <;> simp [hd]
    | _ => exact absurd hm Bool.noConfusion

/-! ## STATUS -/

theorem exec_plain_status {i : Instr} {s t : State} (hm : i.mayDispatch = false) (hr : i ≠ .reset)
    (h : exec i s = .next t) : t.status = s.status := by
  cases i with
  | rdMemAddr | rdDramAddr | rdRdLen | rdWrLen | rdStatus | rdDmaFull | rdDmaBusy | rdPc
  | rdPcreg k | rdMem a | wrDmaFull v m | wrDmaBusy v m | wrPc v m | wrPcreg k v m | wrMem a v m
  | rdSemaphore | wrMemAddr v m | wrDramAddr v m | wrSemaphore v m =>
    cases h
    simp [State.maskCtrl, State.setCtrl_status]
  | wrRdLen v m | wrWrLen v m | dmaToLocal k c l | dmaToMain k c l =>
    cases h
    simp [State.afterRdLen, State.afterWrLen, State.transferToLocal, State.transferToMain,
      State.maskCtrl, State.setCtrl_status]
  | deliverSpInt =>
    cases h
    simp only [State.deliveryLock_eq]
    cases s.flag .intrOnBreak <;> simp
  | reset => exact absurd rfl hr
  | _ => exact absurd hm Bool.noConfusion

/-- Where no executor runs, STATUS changes only by RESET and by the passes of a written word. -/
theorem exec_status_of_no_run {i : Instr} {s t : State} (hr : i ≠ .reset)
    (h : exec i s = .next t) (hn : t.execCount = s.execCount) :
    t.status = s.status ∨ ∃ w, t.status = setPass s.config w (clearPass s.config w s.status) := by
  rcases exec_cases_of_no_run h hn with hm | ⟨_, rfl⟩ | ⟨u, hu, ht⟩
  · exact .inl (exec_plain_status hm hr h)
  · rcases s.postRun_cases with ⟨_, e⟩ | ⟨_, e⟩ <;> rw [e] <;> exact .inl rfl
  · have hut : t.status = u.status := by rcases ht with rfl | rfl <;> rfl
    rcases hu with rfl | ⟨w, rfl⟩
    · exact .inl hut
    · rw [hut, s.statusEffects_eq w]
      exact .inr ⟨w, rfl⟩

/-- No command sets BROKE (R28). -/
theorem broke_of_passes_broke (p : Config) (w st : Word)
    (h : (setPass p w (clearPass p w st)).getLsbD p.flagBits.broke = true) :
    st.getLsbD p.flagBits.broke = true := by
  have hset : (Command.all.any fun c => decide (setBy c = some .broke) && c.present p.cmdBits w) =
      false := by
    refine List.any_eq_false.2 fun c _ => ?_
    cases c <;> simp [setBy]
  have hb := passes_flag p w st .broke
  rw [hset, Bool.false_or] at hb
  exact (Bool.and_eq_true_iff.1 (hb.symm.trans h)).1

theorem flagBit_spec_ne {n : Nat} (h : n ∈ [2, 3, 4] ∨ 15 ≤ n) (f : Flag) :
    flagBit .spec f ≠ n := by
  have hall : ∀ g ∈ Flag.all, flagBit .spec g ∉ [2, 3, 4] ∧ flagBit .spec g < 15 := by decide
  obtain ⟨hlist, hlt⟩ := hall f f.mem_all
  rintro rfl
  exact h.elim hlist (Nat.not_le.2 hlt)

/-- RESET leaves BROKE clear: HALT has another bit (D4). -/
theorem State.resetBlock_broke (s : State) :
    s.resetBlock.status.getLsbD s.config.flagBits.broke = false := by
  have hne : flagBit s.config.flagBits .broke ≠ flagBit s.config.flagBits .halt :=
    fun e => Flag.noConfusion (flagBit_injective _ e)
  exact (flagMask_getLsbD _ .halt (flagBit_lt _ .broke)).trans (decide_eq_false hne)

/-- Settles O54, by the two passes of a written word (`passes_other`, `broke_of_passes_broke`). -/
theorem statusChangesOnlyInItsFlagsAndBrokeOnlyFalls :
    Obligations.StatusChangesOnlyInItsFlagsAndBrokeOnlyFalls := by
  rintro i s t b rfl h hn
  have other : i ≠ .reset → ∀ n, (∀ f : Flag, flagBit s.config.flagBits f ≠ n) →
      t.status.getLsbD n = s.status.getLsbD n := by
    intro hr n hfree
    rcases exec_status_of_no_run hr h hn with e | ⟨w, e⟩ <;> rw [e]
    exact passes_other s.config w s.status hfree
  refine ⟨other, fun hb hr n hmem => other hr n (hb ▸ flagBit_spec_ne hmem), fun hbroke => ?_⟩
  by_cases hr : i = .reset
  · subst hr
    cases h
    exact absurd (s.resetBlock_broke.symm.trans hbroke) Bool.noConfusion
  · rcases exec_status_of_no_run hr h hn with e | ⟨w, e⟩ <;> rw [e] at hbroke
    · exact hbroke
    · exact broke_of_passes_broke s.config w s.status hbroke

end Sys2Proof.Machine

/-! PROOF. What 20_memory.md says of the storage a bus agent or another device sees: a read answers
what the latest write left (R72), SEMAPHORE is a test-and-set (R74), a bus word reaches main memory
most significant byte first (R61, R62), and the accessor hides its exclusive or (R64, R66). -/

namespace Sys2Proof.Machine

/-! ## A read after a write -/

/-- The masked write is the merge of R120. -/
theorem merged_maskedWrite (old v m : Word) : Merged old v m (maskedWrite old v m) :=
  fun _ hi => maskedWrite_getLsbD old v m hi

theorem State.ctrl_maskCtrl_same (s : State) (r : CtrlReg) (v m : Word) :
    (s.maskCtrl r v m).ctrl r = maskedWrite (s.ctrl r) v m := by
  rw [State.ctrl_maskCtrl, if_pos rfl]

/-- The transfer that a write to RD_LEN starts changes no control register (R219). -/
theorem State.ctrl_afterRdLen (s : State) (r : CtrlReg) : s.afterRdLen.ctrl r = s.ctrl r := by
  cases r <;> rfl

/-- The transfer that a write to WR_LEN starts changes no control register (R219). -/
theorem State.ctrl_afterWrLen (s : State) (r : CtrlReg) : s.afterWrLen.ctrl r = s.ctrl r := by
  cases r <;> rfl

/-- Word 0 of the secondary bank is the program counter, whatever the size of the bank (R31). -/
theorem State.pr_zero (s : State) : s.pr 0 = s.pc := by
  rw [State.pr, State.prIndex, Nat.zero_mod, if_pos rfl]

/-- A read that answers the masked write of `old` after the write answers the merged word. -/
theorem readBack_merged {wr rd : Instr} {s t : State} {old v m x : Word}
    (hw : exec wr s = .next t) (hr : exec rd t = .next (t.answer x))
    (hx : x = maskedWrite old v m) :
    ∃ t u, exec wr s = .next t ∧ exec rd t = .next u ∧ Merged old v m u.rdata :=
  ⟨t, t.answer x, hw, hr, hx ▸ merged_maskedWrite old v m⟩

/-- Settles O21: each place reads back the masked write, by the read-after-write law of its
storage. -/
theorem readAfterWriteAnswersTheMergedWord : Obligations.ReadAfterWriteAnswersTheMergedWord := by
  intro s v m a hinv
  obtain ⟨hlm, _, _, _, hpr, _⟩ := hinv
  refine ⟨fun wr rd old hmem => ?_, fun k _ => readBack_merged rfl rfl (State.pr_setPr_same hpr _ _)⟩
  simp only [List.mem_cons, Prod.mk.injEq, List.not_mem_nil, or_false] at hmem
  rcases hmem with ⟨rfl, rfl, rfl⟩ | ⟨rfl, rfl, rfl⟩ | ⟨rfl, rfl, rfl⟩ | ⟨rfl, rfl, rfl⟩ |
    ⟨rfl, rfl, rfl⟩ | ⟨rfl, rfl, rfl⟩
  · exact readBack_merged rfl rfl (s.ctrl_maskCtrl_same .memAddr v m)
  · exact readBack_merged rfl rfl (s.ctrl_maskCtrl_same .dramAddr v m)
  · exact readBack_merged rfl rfl
      ((State.ctrl_afterRdLen _ _).trans (s.ctrl_maskCtrl_same .rdLen v m))
  · exact readBack_merged rfl rfl
      ((State.ctrl_afterWrLen _ _).trans (s.ctrl_maskCtrl_same .wrLen v m))
  · rw [← s.pr_zero]
    exact readBack_merged rfl rfl (State.pr_setPr_same hpr _ _)
  · exact readBack_merged rfl rfl (State.lmWord_lmWriteWord hlm _ _)

/-! ## SEMAPHORE -/

/-- A release leaves 0, whatever the data and the mask (R136). -/
theorem exec_wrSemaphore (s : State) (v m : Word) :
    exec (.wrSemaphore v m) s = .next { s with semaphore := 0 } := rfl

/-- A read answers the old value and leaves 1 (R128). -/
theorem exec_rdSemaphore (s : State) :
    exec .rdSemaphore s = .next { s with rdata := s.semaphore, semaphore := 1 } := rfl

/-- Settles O16: a read answers what the write or the read before it left. -/
theorem semaphoreIsATestAndSet : Obligations.SemaphoreIsATestAndSet := by
  intro s v m
  refine ⟨_, _, _, exec_wrSemaphore s v m, exec_rdSemaphore _, rfl, exec_rdSemaphore _, rfl,
    fun t4 h => ?_⟩
  rw [exec_rdSemaphore] at h
  cases h
  exact ⟨rfl, rfl⟩

/-! ## The accessor -/

/-- With at least four bytes of main memory the exclusive or stays inside it: an address of the
memory stands for the physical byte at `a ^ BYTE_XOR` (R64). -/
theorem physAddr_of_lt {c : Config} {a : Nat} (h4 : 2 ≤ c.mainMemBits) (ha : a < c.mainMemSize) :
    physAddr c a = a ^^^ c.byteXor.toNat := by
  have hx : c.byteXor.toNat < c.mainMemSize :=
    Nat.lt_of_lt_of_le c.byteXor.isLt (Nat.pow_le_pow_right Nat.two_pos h4)
  rw [physAddr, Nat.mod_eq_of_lt ha]
  exact Nat.mod_eq_of_lt (Nat.xor_lt_two_pow ha hx)

/-- Settles O27, by the accessor laws of reads and writes and by `physAddr_of_lt`. -/
theorem accessorReadsBackWhateverTheXor : Obligations.AccessorReadsBackWhateverTheXor := by
  intro s a b hinv
  obtain ⟨_, _, hmain, _⟩ := hinv
  refine ⟨State.mainRead_mainWrite_same hmain a b,
    fun _ hne => State.mainRead_mainWrite_other s b hne, fun h4 ha => ?_⟩
  rw [State.mainRead, physAddr_of_lt h4 ha]

/-! ## A bus word on its way out -/

/-- No two bytes of a run that fits in main memory have one physical place. -/
theorem physAddr_add_ne {c : Config} {d i j n : Nat} (hn : n ≤ c.mainMemSize) (hij : i < j)
    (hj : j < n) : physAddr c (d + j) ≠ physAddr c (d + i) := by
  intro h
  have hmod : j ≡ i [MOD c.mainMemSize] := Nat.ModEq.add_left_cancel' d (physAddr_inj c h)
  have : j = i := hmod.eq_of_lt_of_lt (by omega) (by omega)
  omega

/-- A transfer out of one row that fits in main memory copies the row byte by byte (R216). -/
theorem State.mainRead_transferToMain_oneRow {s : State} (h : s.main.wf) (skip l : BitVec 12)
    (hfit : lengthToMain l ≤ s.config.mainMemSize) {i : Nat} (hi : i < lengthToMain l) :
    (s.transferToMain skip 0 l).mainRead (mainStart s.dramAddr + i) =
      s.lmRead (localStart s.memAddr + i) :=
  copyRow_read_last (mainPut_eq s.config) h hi fun _ hlt hlast => physAddr_add_ne hfit hlt hlast

/-- A bus write under the full mask stores the word whole (R120, R142). -/
theorem exec_wrMem_full (s : State) (a : BitVec 11) (w : Word) :
    exec (.wrMem a w 0xFFFFFFFF#32) s = .next (s.lmWriteWord (wordAddress a) w) := by
  rw [exec, execWrMem, maskedWrite_full]

/-- A word stored at the local start address and moved out by a four-byte transfer lies in main
memory in the byte order of the bus word, whatever that order is (R61, R62). -/
theorem State.mainRead_transferToMain_lmWriteWord {s : State} (hlm : s.lm.wf) (hmain : s.main.wf)
    (h4 : 4 ≤ s.config.mainMemSize) (w : Word) {i : Nat} (hi : i < 4) :
    ((s.lmWriteWord (localStart s.memAddr) w).transferToMain 0 0 3).mainRead
      (mainStart s.dramAddr + i) = byteOfWord s.config.lmByteOrder w i :=
  calc
    _ = (s.lmWriteWord (localStart s.memAddr) w).lmRead (localStart s.memAddr + i) :=
      State.mainRead_transferToMain_oneRow (s := s.lmWriteWord (localStart s.memAddr) w)
        hmain 0 3 h4 hi
    _ = byteOfWord s.config.lmByteOrder w i := State.lmRead_lmWriteWord_same hlm _ w hi

/-- Settles O26: byte `i` above the main start address is byte `i` of the word, and under the order
of D7 those are the word's bytes from the top down. -/
theorem busWordReachesMainMostSignificantByteFirst :
    Obligations.BusWordReachesMainMostSignificantByteFirst := by
  intro s a w hinv hbig hbits hstart
  obtain ⟨hlm, _, hmain, _⟩ := hinv
  have hlocal : localStart s.memAddr = wordAddress a := hstart
  have h4 : 4 ≤ s.config.mainMemSize := Nat.pow_le_pow_right Nat.two_pos hbits
  have byte : ∀ i, i < 4 → ((s.lmWriteWord (wordAddress a) w).transferToMain 0 0 3).mainRead
      (mainStart s.dramAddr + i) = w.extractLsb' (8 * (3 - i)) 8 := by
    intro i hi
    rw [← hlocal, State.mainRead_transferToMain_lmWriteWord hlm hmain h4 w hi, hbig, byteOfWord]
  exact ⟨_, _, exec_wrMem_full s a w, rfl, byte 0 (by decide), byte 1 (by decide),
    byte 2 (by decide), byte 3 (by decide)⟩

end Sys2Proof.Machine

/-! PROOF. What 30_encoding.md says of the decoder: each bank's address selects its register (R91 to
R93), a command row is the STATUS write that carries that command alone (R95, R160), decoding undoes
encoding, and the default tables are those of R95 and R27. -/

namespace Sys2Proof.Machine

/-! ## What a port word of each format decodes to -/

section Formats

variable (c : Config) (addr v m : Word)

theorem decode_statusCmd :
    decode c ⟨Format.statusCmd.sel, addr, v, m⟩ = .ok (decodeStatusCmd c.cmdBits addr) := by
  rw [decode, Format.ofSel_sel]

theorem decode_ctrlRead :
    decode c ⟨Format.ctrlRead.sel, addr, v, m⟩ = .ok (decodeCtrlRead addr) := by
  rw [decode, Format.ofSel_sel]

theorem decode_ctrlWrite :
    decode c ⟨Format.ctrlWrite.sel, addr, v, m⟩ = .ok (decodeCtrlWrite addr v m) := by
  rw [decode, Format.ofSel_sel]

theorem decode_pcRead :
    decode c ⟨Format.pcRead.sel, addr, v, m⟩ = .ok (decodePcRead c addr) := by
  rw [decode, Format.ofSel_sel]

theorem decode_pcWrite :
    decode c ⟨Format.pcWrite.sel, addr, v, m⟩ = .ok (decodePcWrite c addr v m) := by
  rw [decode, Format.ofSel_sel]

theorem decode_memRead :
    decode c ⟨Format.memRead.sel, addr, v, m⟩ = .ok (.rdMem (memIndex addr)) := by
  rw [decode, Format.ofSel_sel]

theorem decode_memWrite :
    decode c ⟨Format.memWrite.sel, addr, v, m⟩ = .ok (.wrMem (memIndex addr) v m) := by
  rw [decode, Format.ofSel_sel]

theorem decode_lenToLocal :
    decode c ⟨Format.lenToLocal.sel, addr, v, m⟩ =
      .ok (.dmaToLocal (lenSkip addr) (lenCountM1 addr) (lenRaw addr)) := by
  rw [decode, Format.ofSel_sel]

theorem decode_lenToMain :
    decode c ⟨Format.lenToMain.sel, addr, v, m⟩ =
      .ok (.dmaToMain (lenSkip addr) (lenCountM1 addr) (lenRaw addr)) := by
  rw [decode, Format.ofSel_sel]

theorem decode_tag : decode c ⟨Format.tag.sel, addr, v, m⟩ = .ok (decodeTag addr) := by
  rw [decode, Format.ofSel_sel]

end Formats

/-! ## The control bank -/

/-- The rows of a control-bank read, in index order (R91, R121 to R128). -/
theorem decodeCtrlRead_getElem? (addr : Word) :
    [Instr.rdMemAddr, .rdDramAddr, .rdRdLen, .rdWrLen, .rdStatus, .rdDmaFull, .rdDmaBusy,
      .rdSemaphore][(ctrlIndex addr).toNat]? = some (decodeCtrlRead addr) := by
  have hlt : (ctrlIndex addr).toNat < 8 := (ctrlIndex addr).isLt
  unfold decodeCtrlRead
  generalize (ctrlIndex addr).toNat = n at hlt
  interval_cases n <;> rfl

/-- The rows of a control-bank write, in index order (R91, R129 to R136). -/
theorem decodeCtrlWrite_getElem? (addr v m : Word) :
    [Instr.wrMemAddr v m, .wrDramAddr v m, .wrRdLen v m, .wrWrLen v m, .wrStatus v m,
      .wrDmaFull v m, .wrDmaBusy v m, .wrSemaphore v m][(ctrlIndex addr).toNat]? =
        some (decodeCtrlWrite addr v m) := by
  have hlt : (ctrlIndex addr).toNat < 8 := (ctrlIndex addr).isLt
  unfold decodeCtrlWrite
  generalize (ctrlIndex addr).toNat = n at hlt
  interval_cases n <;> rfl

/-- Settles O4: the index is `ctrlIndex`, and its value picks the row. -/
theorem controlBankDecodesAddrFourToTwo : Obligations.ControlBankDecodesAddrFourToTwo := by
  intro c addr v m
  rw [← ctrlIndex_toNat]
  exact ⟨⟨_, decodeCtrlRead_getElem? addr, decode_ctrlRead c addr v m⟩,
    ⟨_, decodeCtrlWrite_getElem? addr v m, decode_ctrlWrite c addr v m⟩⟩

/-! ## The secondary bank -/

theorem pcIndex_eq_ofNat (c : Config) (addr : Word) :
    pcIndex c addr = BitVec.ofNat 30 (addr.toNat / 4 % 2 ^ c.pcregsBits) := by
  rw [← pcIndex_toNat, BitVec.ofNat_toNat, BitVec.setWidth_eq]

theorem pcIndex_zero (c : Config) : pcIndex c (pcAddr 0) = 0 :=
  pcIndex_pcAddr (pcregsCount_pos c)

/-- A bank of one word has only index 0 (R92). -/
theorem pcIndex_of_pcregsCount_one {c : Config} (h : c.pcregsCount = 1) (addr : Word) :
    pcIndex c addr = 0 := by
  rw [pcIndex_eq_zero, show 2 ^ c.pcregsBits = 1 from h, Nat.mod_one]

theorem decodePcRead_of_zero {c : Config} {addr : Word} (h : pcIndex c addr = 0) :
    decodePcRead c addr = .rdPc := if_pos h

theorem decodePcRead_of_ne {c : Config} {addr : Word} (h : pcIndex c addr ≠ 0) :
    decodePcRead c addr = .rdPcreg (pcIndex c addr) := if_neg h

theorem decodePcWrite_of_zero {c : Config} {addr : Word} (h : pcIndex c addr = 0) (v m : Word) :
    decodePcWrite c addr v m = .wrPc v m := if_pos h

theorem decodePcWrite_of_ne {c : Config} {addr : Word} (h : pcIndex c addr ≠ 0) (v m : Word) :
    decodePcWrite c addr v m = .wrPcreg (pcIndex c addr) v m := if_neg h

/-- Settles O5: `pcIndex` is the remainder, and it is 0 in a bank of one word. -/
theorem secondaryBankDecodesModuloItsSize : Obligations.SecondaryBankDecodesModuloItsSize := by
  intro c addr v m
  rw [decode_pcRead, decode_pcWrite, ← pcIndex_eq_ofNat]
  simp only [← pcIndex_eq_zero]
  by_cases h : pcIndex c addr = 0
  · simp only [if_pos h, decodePcRead_of_zero h, decodePcWrite_of_zero h, and_self, implies_true]
  · simp only [if_neg h, decodePcRead_of_ne h, decodePcWrite_of_ne h, true_and]
    exact fun h1 => absurd (pcIndex_of_pcregsCount_one h1 addr) h

/-! ## Local memory -/

/-- Settles O6: the word is `memIndex`. -/
theorem localMemoryDecodesTheWordAddress : Obligations.LocalMemoryDecodesTheWordAddress :=
  fun c addr v m => ⟨memIndex addr, memIndex_toNat addr, decode_memRead c addr v m,
    decode_memWrite c addr v m⟩

/-! ## The commands of a STATUS write -/

/-- `WR.STATUS` delivers the masked word to STATUS (R133, D6). -/
theorem exec_wrStatus (v m : Word) (s : State) :
    exec (.wrStatus v m) s = .next (s.applyStatusWrite (v &&& m)) := rfl

/-- Settles O7: a word with one command alone decodes to the command's row, and the row runs as the
STATUS write of that word. -/
theorem oneCommandIsTheStatusWriteThatCarriesIt :
    Obligations.OneCommandIsTheStatusWriteThatCarriesIt := by
  intro cmd v m s halone
  rw [decode_statusCmd, decodeStatusCmd_alone halone, exec_command cmd halone, exec_wrStatus]
  exact ⟨rfl, rfl⟩

/-- Settles O58: the default configuration takes both tables, and their entries are evaluated. -/
theorem tablesPlaceCommandsAndFlagsAsTheSpecDecides :
    Obligations.TablesPlaceCommandsAndFlagsAsTheSpecDecides :=
  ⟨⟨rfl, rfl⟩, by decide, by decide, by decide⟩

/-! ## Decoding undoes encoding -/

theorem decode_encodeCommand (c : Config) (cmd : Command) :
    decode c (encodeCommand c.cmdBits cmd) = .ok cmd.instr := by
  rw [encodeCommand, encodeWord, decode_statusCmd,
    decodeStatusCmd_alone (cmd.present_word c.cmdBits)]

theorem decodePcRead_pcAddr {c : Config} {k : BitVec 30} (hk : pcregIndexOk c k = true) :
    decodePcRead c (pcAddr k) = .rdPcreg k := by
  obtain ⟨hne, hlt⟩ := (pcregIndexOk_iff c k).1 hk
  have hi : pcIndex c (pcAddr k) = k := pcIndex_pcAddr hlt
  rw [decodePcRead_of_ne (hi.symm ▸ hne), hi]

theorem decodePcWrite_pcAddr {c : Config} {k : BitVec 30} (hk : pcregIndexOk c k = true)
    (v m : Word) : decodePcWrite c (pcAddr k) v m = .wrPcreg k v m := by
  obtain ⟨hne, hlt⟩ := (pcregIndexOk_iff c k).1 hk
  have hi : pcIndex c (pcAddr k) = k := pcIndex_pcAddr hlt
  rw [decodePcWrite_of_ne (hi.symm ▸ hne), hi]

/-- Settles O1, format by format: a fixed address, tag or port event decodes to its own row, and a
field of the encoder's word reads back as the operand it was written from. -/
theorem decodeOfEncodeIsTheOperation : Obligations.DecodeOfEncodeIsTheOperation := by
  intro c i hwf
  cases i with
  | rdMemAddr | rdDramAddr | rdRdLen | rdWrLen | rdStatus | rdDmaFull | rdDmaBusy | rdSemaphore =>
    exact decode_ctrlRead c _ 0 0
  | wrMemAddr v m | wrDramAddr v m | wrRdLen v m | wrWrLen v m | wrStatus v m | wrDmaFull v m
  | wrDmaBusy v m | wrSemaphore v m => exact decode_ctrlWrite c _ v m
  | rdPc => rw [encode, encodeRead, decode_pcRead, decodePcRead_of_zero (pcIndex_zero c)]
  | wrPc v m => rw [encode, encodeWrite, decode_pcWrite, decodePcWrite_of_zero (pcIndex_zero c)]
  | rdPcreg k => rw [encode, encodeRead, decode_pcRead, decodePcRead_pcAddr hwf]
  | wrPcreg k v m => rw [encode, encodeWrite, decode_pcWrite, decodePcWrite_pcAddr hwf]
  | rdMem a => rw [encode, encodeRead, decode_memRead, memIndex_memAddrOf]
  | wrMem a v m => rw [encode, encodeWrite, decode_memWrite, memIndex_memAddrOf]
  | clrHalt | setHalt | clrBroke | clrIntr | setIntr | clrSstep | setSstep | clrIntrBreak
  | setIntrBreak | clrSig0 | setSig0 | clrSig1 | setSig1 | clrSig2 | setSig2 | clrSig3 | setSig3
  | clrSig4 | setSig4 | clrSig5 | setSig5 | clrSig6 | setSig6 | clrSig7 | setSig7 =>
    exact decode_encodeCommand c _
  | dmaToLocal skip countM1 rawlen =>
    rw [encode, encodeWord, decode_lenToLocal, lenSkip_lenWord, lenCountM1_lenWord, lenRaw_lenWord]
  | dmaToMain skip countM1 rawlen =>
    rw [encode, encodeWord, decode_lenToMain, lenSkip_lenWord, lenCountM1_lenWord, lenRaw_lenWord]
  | dispatchGfx | dispatchAudio => exact decode_tag c _ 0 0
  | dispatchOther tag => rw [encode, encodeWord, decode_tag, decodeTag_other hwf]
  | postrun | deliverSpInt | redispatch | reset => rfl

end Sys2Proof.Machine

/-! PROOF. What 40_register_access.md says of a bus access: every tuple is one row and completes
(R144), and what each read answers, what each write stores, and what both leave alone (R120 to
R143). -/

namespace Sys2Proof.Machine

/-! ## Every bus tuple is one row -/

/-- `i` is a row of format `f`: well formed on a block with the parameters `c`, and encoded with that
format's selector. -/
def RowOf (c : Config) (f : Format) (i : Instr) : Prop :=
  i.wf c = true ∧ (encode c i).sel = f.sel

theorem decodeCtrlRead_rowOf (c : Config) (addr : Word) :
    RowOf c .ctrlRead (decodeCtrlRead addr) := by
  unfold decodeCtrlRead
  split <;> exact ⟨rfl, rfl⟩

theorem decodeCtrlWrite_rowOf (c : Config) (addr v m : Word) :
    RowOf c .ctrlWrite (decodeCtrlWrite addr v m) := by
  unfold decodeCtrlWrite
  split <;> exact ⟨rfl, rfl⟩

/-- An address whose index is not 0 names a word of the bank other than the program counter (R92). -/
theorem pcregIndexOk_pcIndex {c : Config} {addr : Word} (h : pcIndex c addr ≠ 0) :
    pcregIndexOk c (pcIndex c addr) = true := by
  refine (pcregIndexOk_iff _ _).2 ⟨h, ?_⟩
  rw [pcIndex_toNat]
  exact Nat.mod_lt _ (pcregsCount_pos c)

theorem decodePcRead_rowOf (c : Config) (addr : Word) :
    RowOf c .pcRead (decodePcRead c addr) := by
  by_cases h : pcIndex c addr = 0
  · rw [decodePcRead_of_zero h]
    exact ⟨rfl, rfl⟩
  · rw [decodePcRead_of_ne h]
    exact ⟨pcregIndexOk_pcIndex h, rfl⟩

theorem decodePcWrite_rowOf (c : Config) (addr v m : Word) :
    RowOf c .pcWrite (decodePcWrite c addr v m) := by
  by_cases h : pcIndex c addr = 0
  · rw [decodePcWrite_of_zero h]
    exact ⟨rfl, rfl⟩
  · rw [decodePcWrite_of_ne h]
    exact ⟨pcregIndexOk_pcIndex h, rfl⟩

/-- Settles O3: bank by bank, the decoder's row is one of that bank and direction, and every
operation completes (`exec_total`). -/
theorem everyBusTransactionIsOneRowAndCompletes :
    Obligations.EveryBusTransactionIsOneRowAndCompletes := by
  intro c f addr v m hf
  obtain ⟨i, hd, hwf, hsel⟩ : ∃ i, decode c ⟨f.sel, addr, v, m⟩ = .ok i ∧ RowOf c f i := by
    cases f with
    | ctrlRead => exact ⟨_, decode_ctrlRead c addr v m, decodeCtrlRead_rowOf c addr⟩
    | ctrlWrite => exact ⟨_, decode_ctrlWrite c addr v m, decodeCtrlWrite_rowOf c addr v m⟩
    | pcRead => exact ⟨_, decode_pcRead c addr v m, decodePcRead_rowOf c addr⟩
    | pcWrite => exact ⟨_, decode_pcWrite c addr v m, decodePcWrite_rowOf c addr v m⟩
    | memRead => exact ⟨_, decode_memRead c addr v m, rfl, rfl⟩
    | memWrite => exact ⟨_, decode_memWrite c addr v m, rfl, rfl⟩
    | _ => simp at hf
  exact ⟨i, hd, hwf, hsel, exec_total i⟩

/-! ## Which tuples stand for a row of the control bank -/

/-- The control-bank reads, in index order (R91). -/
def ctrlReads : List Instr :=
  [.rdMemAddr, .rdDramAddr, .rdRdLen, .rdWrLen, .rdStatus, .rdDmaFull, .rdDmaBusy, .rdSemaphore]

/-- The control-bank writes, in index order (R91). -/
def ctrlWrites : List (Word → Word → Instr) :=
  [.wrMemAddr, .wrDramAddr, .wrRdLen, .wrWrLen, .wrStatus, .wrDmaFull, .wrDmaBusy, .wrSemaphore]

theorem readOfCtrl {k : Nat} {i : Instr} (h : ctrlReads[k]? = some i) : ReadOfCtrl k i := by
  intro c addr v m hk
  have hrow : ctrlReads[(ctrlIndex addr).toNat]? = some (decodeCtrlRead addr) :=
    decodeCtrlRead_getElem? addr
  rw [ctrlIndex_toNat, hk, h] at hrow
  rw [decode_ctrlRead, Option.some.inj hrow]

theorem writeOfCtrl {k : Nat} {i : Word → Word → Instr} (h : ctrlWrites[k]? = some i) :
    WriteOfCtrl k i := by
  intro c addr v m hk
  have hrow : (ctrlWrites.map (· v m))[(ctrlIndex addr).toNat]? =
      some (decodeCtrlWrite addr v m) := decodeCtrlWrite_getElem? addr v m
  rw [ctrlIndex_toNat, hk, List.getElem?_map, h] at hrow
  rw [decode_ctrlWrite, ← Option.some.inj hrow]

/-! ## The control bank -/

/-- Settles O13: the offsets pick the rows (`readOfCtrl`), and each row answers its register. -/
theorem controlReadsAnswerTheStoredWord : Obligations.ControlReadsAnswerTheStoredWord :=
  ⟨⟨readOfCtrl rfl, readOfCtrl rfl, readOfCtrl rfl, readOfCtrl rfl, readOfCtrl rfl,
    readOfCtrl rfl, readOfCtrl rfl⟩, fun _ => ⟨rfl, rfl, rfl, rfl, rfl, rfl, rfl⟩⟩

/-- Settles O14: the offset picks the row, and the row answers the old value (`exec_rdSemaphore`). -/
theorem semaphoreReadAnswersAndLeavesOne : Obligations.SemaphoreReadAnswersAndLeavesOne :=
  ⟨readOfCtrl rfl, exec_rdSemaphore⟩

/-- Settles O15: the offset picks the row, and the row leaves 0 (`exec_wrSemaphore`). -/
theorem semaphoreWriteLeavesZero : Obligations.SemaphoreWriteLeavesZero :=
  ⟨writeOfCtrl rfl, exec_wrSemaphore⟩

/-- A write to MEM_ADDR is the masked write and nothing else (R129). -/
theorem exec_wrMemAddr (s : State) (v m : Word) :
    exec (.wrMemAddr v m) s = .next { s with memAddr := maskedWrite s.memAddr v m } := rfl

/-- A write to DRAM_ADDR is the masked write and nothing else (R130). -/
theorem exec_wrDramAddr (s : State) (v m : Word) :
    exec (.wrDramAddr v m) s = .next { s with dramAddr := maskedWrite s.dramAddr v m } := rfl

/-- Settles O17: both writes are the masked write, which merges. -/
theorem addressRegisterWritesMergeUnderTheMask :
    Obligations.AddressRegisterWritesMergeUnderTheMask :=
  ⟨⟨writeOfCtrl rfl, writeOfCtrl rfl⟩, fun s v m =>
    ⟨⟨_, merged_maskedWrite _ v m, exec_wrMemAddr s v m⟩,
      ⟨_, merged_maskedWrite _ v m, exec_wrDramAddr s v m⟩⟩⟩

/-- A write to RD_LEN is the masked write and then the transfer that the register's new value asks
for (R131). -/
theorem exec_wrRdLen (s : State) (v m : Word) :
    exec (.wrRdLen v m) s = .next { s with rdLen := maskedWrite s.rdLen v m }.afterRdLen := rfl

/-- The transfer after a write to RD_LEN is `DMA.TO_LOCAL` of the register (R131, R210). -/
theorem exec_dmaToLocal_rdLen (s : State) :
    exec (.dmaToLocal (lenSkip s.rdLen) (lenCountM1 s.rdLen) (lenRaw s.rdLen)) s =
      .next s.afterRdLen := rfl

/-- Settles O18: the write ends in the transfer of the merged word, which keeps the registers. -/
theorem rdLenWriteMergesThenTransfersIn : Obligations.RdLenWriteMergesThenTransfersIn := by
  refine ⟨writeOfCtrl rfl, fun s v m => ?_⟩
  let s' : State := { s with rdLen := maskedWrite s.rdLen v m }
  exact ⟨s'.rdLen, s'.afterRdLen, merged_maskedWrite s.rdLen v m, exec_wrRdLen s v m,
    exec_dmaToLocal_rdLen s', State.ctrl_afterRdLen s' .rdLen⟩

/-- A write to WR_LEN is the masked write and then the transfer that the register's new value asks
for (R132). -/
theorem exec_wrWrLen (s : State) (v m : Word) :
    exec (.wrWrLen v m) s = .next { s with wrLen := maskedWrite s.wrLen v m }.afterWrLen := rfl

/-- The transfer after a write to WR_LEN is `DMA.TO_MAIN` of the register (R132, R210). -/
theorem exec_dmaToMain_wrLen (s : State) :
    exec (.dmaToMain (lenSkip s.wrLen) (lenCountM1 s.wrLen) (lenRaw s.wrLen)) s =
      .next s.afterWrLen := rfl

/-- Settles O19: the write ends in the transfer of the merged word, which keeps the registers. -/
theorem wrLenWriteMergesThenTransfersOut : Obligations.WrLenWriteMergesThenTransfersOut := by
  refine ⟨writeOfCtrl rfl, fun s v m => ?_⟩
  let s' : State := { s with wrLen := maskedWrite s.wrLen v m }
  exact ⟨s'.wrLen, s'.afterWrLen, merged_maskedWrite s.wrLen v m, exec_wrWrLen s v m,
    exec_dmaToMain_wrLen s', State.ctrl_afterWrLen s' .wrLen⟩

/-- Settles O20: both writes are the identity. -/
theorem readOnlyRegistersDropWrites : Obligations.ReadOnlyRegistersDropWrites :=
  ⟨⟨writeOfCtrl rfl, writeOfCtrl rfl⟩, fun _ _ _ => ⟨rfl, rfl⟩⟩

/-! ## The secondary bank -/

theorem readOfPc_zero (c : Config) : ReadOfPc c 0 .rdPc := by
  intro addr v m h
  rw [decode_pcRead, decodePcRead_of_zero ((pcIndex_eq_zero c addr).2 h)]

theorem writeOfPc_zero (c : Config) : WriteOfPc c 0 .wrPc := by
  intro addr v m h
  rw [decode_pcWrite, decodePcWrite_of_zero ((pcIndex_eq_zero c addr).2 h)]

theorem pcIndex_eq_of_toNat {c : Config} {k : BitVec 30} {addr : Word}
    (h : addr.toNat / 4 % 2 ^ c.pcregsBits = k.toNat) : pcIndex c addr = k :=
  BitVec.eq_of_toNat_eq ((pcIndex_toNat c addr).trans h)

theorem readOfPc_of_ne (c : Config) {k : BitVec 30} (hk : k ≠ 0) :
    ReadOfPc c k.toNat (.rdPcreg k) := by
  intro addr v m h
  obtain rfl := pcIndex_eq_of_toNat h
  rw [decode_pcRead, decodePcRead_of_ne hk]

theorem writeOfPc_of_ne (c : Config) {k : BitVec 30} (hk : k ≠ 0) :
    WriteOfPc c k.toNat (.wrPcreg k) := by
  intro addr v m h
  obtain rfl := pcIndex_eq_of_toNat h
  rw [decode_pcWrite, decodePcWrite_of_ne hk]

/-- A read of the program counter answers all its bits (R137). -/
theorem exec_rdPc (s : State) : exec .rdPc s = .next { s with rdata := s.pc } := by
  rw [exec, execRdPc, s.pr_zero, State.answer]

/-- A store to word 0 of the secondary bank sets the program counter alone (R31). -/
theorem State.setPr_zero (s : State) (v : Word) : s.setPr 0 v = { s with pc := v } := by
  rw [State.setPr, State.prIndex, Nat.zero_mod, if_pos rfl]

/-- A write of the program counter is the masked write and nothing else (R138). -/
theorem exec_wrPc (s : State) (v m : Word) :
    exec (.wrPc v m) s = .next { s with pc := maskedWrite s.pc v m } := by
  rw [exec, execWrPc, s.setPr_zero, s.pr_zero]

/-- Settles O22: index 0 of the bank is the program counter, read whole and written by the masked
write. -/
theorem pcReadsAndWritesAllBits : Obligations.PcReadsAndWritesAllBits :=
  fun s v m => ⟨readOfPc_zero s.config, writeOfPc_zero s.config, exec_rdPc s,
    _, merged_maskedWrite s.pc v m, exec_wrPc s v m⟩

/-- A store to a word after the first changes the list of those words alone (R31). -/
theorem State.setPr_frame_of_ne {s : State} {k : Nat} (h : s.prIndex k ≠ 0) (v : Word) :
    s.setPr k v = { s with pcRegs := (s.setPr k v).pcRegs } := by
  rw [State.setPr, if_neg h]

/-- Settles O23: a well-formed index is its own remainder and is not 0, so the bank's laws give the
word (`State.pr_setPr_same`), the other words (`State.pr_setPr_other`) and the frame. -/
theorem otherSecondaryWordsArePlainStorage : Obligations.OtherSecondaryWordsArePlainStorage := by
  intro s k v m hinv hwf
  obtain ⟨_, _, _, _, hpr, _⟩ := hinv
  obtain ⟨hk, hlt⟩ := (pcregIndexOk_iff s.config k).1 hwf
  have hmod : k.toNat % s.config.pcregsCount = k.toNat := Nat.mod_eq_of_lt hlt
  have hidx : s.prIndex k.toNat ≠ 0 :=
    fun e => hk (BitVec.eq_of_toNat_eq (hmod.symm.trans e))
  refine ⟨readOfPc_of_ne s.config hk, writeOfPc_of_ne s.config hk, rfl, _, rfl, ?_,
    fun j hj hjk => State.pr_setPr_other s _ ?_, State.setPr_frame_of_ne hidx _⟩
  · rw [State.pr_setPr_same hpr]
    exact merged_maskedWrite _ v m
  · rwa [Nat.mod_eq_of_lt hj, hmod]

/-! ## Local memory -/

theorem memIndex_eq_of_and {a : BitVec 11} {addr : Word}
    (h : (addr &&& 0x1FFC#32).toNat = 4 * a.toNat) : memIndex addr = a :=
  BitVec.eq_of_toNat_eq (Nat.eq_of_mul_eq_mul_left (by decide) ((memIndex_toNat addr).trans h))

theorem readOfMem (a : BitVec 11) : ReadOfMem (4 * a.toNat) (.rdMem a) := by
  intro c addr v m h
  rw [decode_memRead, memIndex_eq_of_and h]

theorem writeOfMem (a : BitVec 11) : WriteOfMem (4 * a.toNat) (.wrMem a) := by
  intro c addr v m h
  rw [decode_memWrite, memIndex_eq_of_and h]

theorem State.lmWord_of_big {s : State} (h : s.config.lmByteOrder = .big) (a : Nat) :
    s.lmWord a = s.bigWord a := by
  rw [State.lmWord, h, wordOfBytes, State.bigWord]

theorem State.lmWord_of_little {s : State} (h : s.config.lmByteOrder = .little) (a : Nat) :
    s.lmWord a = s.littleWord a := by
  rw [State.lmWord, h, wordOfBytes, State.littleWord]

/-- A read of local memory answers the word at its address (R141). -/
theorem exec_rdMem (s : State) (a : BitVec 11) :
    exec (.rdMem a) s = .next { s with rdata := s.lmWord (4 * a.toNat) } := rfl

/-- Settles O24: the word at the address is its four bytes in the order of the parameter. -/
theorem localReadAnswersTheFourBytes : Obligations.LocalReadAnswersTheFourBytes := by
  refine fun s a => ⟨readOfMem a, fun hbig => ?_, fun hlittle => ?_⟩
  · rw [exec_rdMem, State.lmWord_of_big hbig]
  · rw [exec_rdMem, State.lmWord_of_little hlittle]

/-- A write to local memory stores the masked write of the word at its address (R142). -/
theorem exec_wrMem (s : State) (a : BitVec 11) (v m : Word) :
    exec (.wrMem a v m) s = .next (s.lmWriteWord (4 * a.toNat)
      (maskedWrite (s.lmWord (4 * a.toNat)) v m)) := rfl

/-- Storing the masked write of a word merges into that word (R120, R142). -/
theorem State.lmWriteWord_maskedWrite_merged {s : State} (h : s.lm.wf) (a : Nat) (v m : Word) :
    Merged (s.lmWord a) v m ((s.lmWriteWord a (maskedWrite (s.lmWord a) v m)).lmWord a) := by
  rw [State.lmWord_lmWriteWord h]
  exact merged_maskedWrite _ v m

/-- Settles O25: the stored word is the merged one under either order of its bytes, and no byte
outside it has the address of one of its four. -/
theorem localWriteMergesIntoTheWord : Obligations.LocalWriteMergesIntoTheWord := by
  intro s a v m hinv
  obtain ⟨hlm, _⟩ := hinv
  have hmerged := State.lmWriteWord_maskedWrite_merged hlm (4 * a.toNat) v m
  refine ⟨writeOfMem a, _, exec_wrMem s a v m, rfl, fun hbig => ?_, fun hlittle => ?_,
    fun b hb hout => State.lmRead_lmWriteWord_other s _ fun i hi => ?_⟩
  · rw [← State.lmWord_of_big hbig]
    exact State.lmWord_of_big (s := s.lmWriteWord _ _) hbig _ ▸ hmerged
  · rw [← State.lmWord_of_little hlittle]
    exact State.lmWord_of_little (s := s.lmWriteWord _ _) hlittle _ ▸ hmerged
  · have ha := a.isLt
    unfold localMemSize
    omega

end Sys2Proof.Machine

/-! PROOF. What 41_status_commands.md says of a write to STATUS: its flags, its interrupt calls and
its ignored bits (R160 to R188), the gates that end it (R189 to R191), and what each command does
alone. -/

namespace Sys2Proof.Machine

/-! ## The commands of each flag -/

/-- The command that clears `f`. -/
def clearCommand : Flag → Command
  | .halt => .clrHalt
  | .broke => .clrBroke
  | .sstep => .clrSstep
  | .intrOnBreak => .clrIntrBreak
  | .sig n => .clrSig n

/-- The command that sets `f`; BROKE has none (R28). -/
def setCommand : Flag → Option Command
  | .halt => some .setHalt
  | .broke => none
  | .sstep => some .setSstep
  | .intrOnBreak => some .setIntrBreak
  | .sig n => some (.setSig n)

theorem clearedBy_eq_some_iff {c : Command} {f : Flag} :
    clearedBy c = some f ↔ c = clearCommand f := by
  constructor
  · intro h
    cases c <;> cases h <;> rfl
  · rintro rfl
    cases f <;> rfl

theorem setBy_eq_some_iff {c : Command} {f : Flag} :
    setBy c = some f ↔ some c = setCommand f := by
  constructor
  · intro h
    cases c <;> cases h <;> rfl
  · intro h
    cases f <;> cases h <;> rfl

/-- Only the command of `o` counts in a search for a present one. -/
theorem any_present_eq (p : CmdBits) (w : Word) (o : Option Command) {q : Command → Prop}
    [DecidablePred q] (h : ∀ c, q c ↔ some c = o) :
    (Command.all.any fun c => decide (q c) && c.present p w) = o.any (·.present p w) := by
  rw [Bool.eq_iff_iff]
  simp only [h, List.any_eq_true, Bool.and_eq_true, decide_eq_true_eq, Option.any_eq_true]
  exact ⟨fun ⟨c, _, hc, hw⟩ => ⟨c, hc.symm, hw⟩, fun ⟨c, hc, hw⟩ => ⟨c, c.mem_all, hc.symm, hw⟩⟩

/-- A flag after both passes, by its own two commands (R188). -/
theorem passes_flag_commands (p : Config) (w st : Word) (f : Flag) :
    (setPass p w (clearPass p w st)).getLsbD (flagBit p.flagBits f) =
      ((setCommand f).any (·.present p.cmdBits w) ||
        (st.getLsbD (flagBit p.flagBits f) && !(clearCommand f).present p.cmdBits w)) := by
  rw [passes_flag, any_present_eq _ _ _ fun _ => setBy_eq_some_iff,
    any_present_eq _ _ _ fun _ => clearedBy_eq_some_iff.trans Option.some_inj.symm,
    Option.any_some]

/-! ## The STATUS write -/

/-- `WR.STATUS` makes its effects and then comes to the gating (R160, R189). -/
theorem exec_wrStatus_gate (v m : Word) (s : State) :
    exec (.wrStatus v m) s = .next ((s.statusEffects (v &&& m)).gate
      ((v &&& m).getLsbD s.config.cmdBits.clrHalt ||
        (v &&& m).getLsbD s.config.cmdBits.clrBroke)) := rfl

/-- Settles O33: each flag follows its own two commands (`passes_flag_commands`), a bit without a
flag stays (`passes_other`), and the effects are those of `State.statusEffects_eq`. -/
theorem statusWriteClearsThenSetsThenCalls : Obligations.StatusWriteClearsThenSetsThenCalls := by
  rintro s v m _ _ _ rfl rfl rfl hintr
  have flags := passes_flag_commands s.config (v &&& m) s.status
  refine ⟨_, flags .halt, flags .broke, flags .sstep, flags .intrOnBreak, fun n => flags (.sig n),
    fun _ hfree => passes_other s.config _ s.status hfree, ?_, exec_wrStatus_gate v m s⟩
  rw [s.statusEffects_eq, hintr]
  rfl

/-- A STATUS write looks at its word through the commands that are present, and in no other way. -/
theorem State.applyStatusWrite_congr (s : State) {w w' : Word}
    (h : ∀ c : Command, c.present s.config.cmdBits w = c.present s.config.cmdBits w') :
    s.applyStatusWrite w = s.applyStatusWrite w' := by
  have hclear : clearStep s.config w = clearStep s.config w' := by
    funext st c
    simp only [clearStep, h]
  have hset : setStep s.config w = setStep s.config w' := by
    funext st c
    simp only [setStep, h]
  simp only [State.applyStatusWrite, State.statusEffects, State.statusSideEffects, clearPass,
    setPass, clearsHaltOrBroke, hclear, hset, h]

/-- Every command of the table of R95 stands in a bit of the mask. -/
theorem commandMask_getLsbD (c : Command) : (0x03FFFFF7#32).getLsbD (c.bit .spec) = true := by
  have hall : ∀ d ∈ Command.all, (0x03FFFFF7#32).getLsbD (d.bit .spec) = true := by decide
  exact hall c c.mem_all

theorem present_of_and_commandMask {w w' : Word}
    (h : w &&& 0x03FFFFF7#32 = w' &&& 0x03FFFFF7#32) (c : Command) :
    c.present .spec w = c.present .spec w' := by
  have hbit := congrArg (BitVec.getLsbD · (c.bit .spec)) h
  simpa only [Command.present, BitVec.getLsbD_and, commandMask_getLsbD, Bool.and_true] using hbit

/-- Settles O34: the write looks at the 25 commands alone (`State.applyStatusWrite_congr`), and the
mask of R95 keeps their bits. -/
theorem reservedCommandBitsAreIgnored : Obligations.ReservedCommandBitsAreIgnored := by
  intro s v m v' m'
  have same : (∀ c : Command, c.present s.config.cmdBits (v &&& m) =
      c.present s.config.cmdBits (v' &&& m')) →
      exec (.wrStatus v m) s = exec (.wrStatus v' m') s := by
    intro h
    rw [exec_wrStatus, exec_wrStatus, s.applyStatusWrite_congr h]
  refine ⟨same, fun hspec hmask => same fun c => ?_⟩
  rw [hspec]
  exact present_of_and_commandMask hmask c

/-! ## The gates -/

/-- The first gate: a locked task that awaits its completion event (R189). -/
theorem State.gate_of_awaiting {s : State} (hlock : s.taskLocked = true)
    (hev : s.eventPending .spInt = true) (c : Bool) : s.gate c = s := by
  rw [State.gate, hlock, hev]
  rfl

/-- The second gate: no task is locked, and the write cleared neither HALT nor BROKE (R190). -/
theorem State.gate_of_not_cleared {s : State} (hlock : s.taskLocked = false) :
    s.gate false = s := by
  rw [State.gate, hlock]
  rfl

/-- Past the first two gates STATUS alone decides (R191). -/
theorem State.gate_of_passed {s : State} {c : Bool}
    (h1 : s.taskLocked = false ∨ s.eventPending .spInt = false)
    (h2 : c = true ∨ s.taskLocked = true) :
    s.gate c = if s.isRunning then s.dispatch else s := by
  rw [State.gate, if_neg, if_neg]
  · rcases h2 with h | h <;> simp [h]
  · rcases h1 with h | h <;> simp [h]

/-- The effects of a STATUS write leave what the first two gates ask as it was. -/
theorem State.statusEffects_gates (s : State) (w : Word) :
    (s.statusEffects w).taskLocked = s.taskLocked ∧
      (s.statusEffects w).eventPending .spInt = s.eventPending .spInt := by
  rw [s.statusEffects_eq w]
  exact ⟨rfl, rfl⟩

/-- `REDISPATCH` dispatches if STATUS shows neither HALT nor BROKE (R249). -/
theorem exec_redispatch (s : State) :
    exec .redispatch s = .next (if s.isRunning then s.dispatch else s) := rfl

/-- Settles O35: the gates ask about the state that the effects leave, where the lock and the
pending event are as before (`State.statusEffects_gates`). -/
theorem gatesDecideWhetherAStatusWriteDispatches :
    Obligations.GatesDecideWhetherAStatusWriteDispatches := by
  rintro s v m _ _ rfl rfl
  obtain ⟨hl, he⟩ := s.statusEffects_gates (v &&& m)
  rw [exec_wrStatus_gate, exec_redispatch]
  refine ⟨fun hlock hev => ?_, fun hlock hhalt hbroke => ?_, fun hfirst hsecond => ?_⟩
  · rw [State.gate_of_awaiting (hl.trans hlock) (he.trans ((s.eventPending_iff _).2 hev))]
  · rw [hhalt, hbroke, Bool.or_self, State.gate_of_not_cleared (hl.trans hlock)]
  · rw [State.gate_of_passed]
    · rw [hl, he]
      refine hfirst.imp_right fun hnone => Bool.eq_false_iff.2 fun hev => ?_
      obtain ⟨e, hmem, hk⟩ := (s.eventPending_iff _).1 hev
      exact hnone e hmem hk
    · rw [hl, Bool.or_eq_true, or_assoc]
      exact hsecond

/-! ## Each command alone -/

theorem onlyBit_clearFlagIn (b : FlagBits) (f : Flag) (st : Word) :
    OnlyBit (flagBit b f) false st (clearFlagIn b f st) :=
  fun _ hi => clearFlagIn_getLsbD b f st hi

theorem onlyBit_setFlagIn (b : FlagBits) (f : Flag) (st : Word) :
    OnlyBit (flagBit b f) true st (setFlagIn b f st) :=
  fun _ hi => setFlagIn_getLsbD b f st hi

/-- Settles O28: each row is the change of its flag, which changes one bit, and then the gating. -/
theorem modeCommandsChangeTheirOneFlag : Obligations.ModeCommandsChangeTheirOneFlag := by
  rintro s _ rfl
  exact ⟨⟨_, onlyBit_clearFlagIn _ .halt _, rfl⟩, ⟨_, onlyBit_setFlagIn _ .halt _, rfl⟩,
    ⟨_, onlyBit_clearFlagIn _ .broke _, rfl⟩, ⟨_, onlyBit_clearFlagIn _ .sstep _, rfl⟩,
    ⟨_, onlyBit_setFlagIn _ .sstep _, rfl⟩, ⟨_, onlyBit_clearFlagIn _ .intrOnBreak _, rfl⟩,
    ⟨_, onlyBit_setFlagIn _ .intrOnBreak _, rfl⟩⟩

theorem exec_clrSig (s : State) (n : Fin 8) :
    exec (Command.clrSig n).instr s = .next ((s.clearFlag (.sig n)).gate false) := by
  fin_cases n <;> rfl

/-- SIG0 apart, whose set command also calls (R172). -/
theorem exec_setSig (s : State) {n : Fin 8} (hn : n ≠ 0) :
    exec (Command.setSig n).instr s = .next ((s.setFlag (.sig n)).gate false) := by
  fin_cases n
  · exact absurd rfl hn
  all_goals rfl

/-- Settles O29: the row of the list is the clear command of the signal (`exec_clrSig`). -/
theorem signalClearsClearTheirOneSignal : Obligations.SignalClearsClearTheirOneSignal := by
  intro s n i hi
  obtain rfl : (Command.clrSig n).instr = i := by
    fin_cases n <;> exact Option.some.inj hi
  exact ⟨_, onlyBit_clearFlagIn _ (.sig n) _, exec_clrSig s n⟩

/-- Settles O30: the row of the list is the set command of the signal (`exec_setSig`). -/
theorem signalSetsSetTheirOneSignal : Obligations.SignalSetsSetTheirOneSignal := by
  intro s n i hn hi
  obtain rfl : (Command.setSig n).instr = i := by
    fin_cases n <;> exact Option.some.inj hi
  exact ⟨_, onlyBit_setFlagIn _ (.sig n) _, exec_setSig s hn⟩

/-- The row of SET_SIG0: the flag, the audio shortcut, the gating (R172). -/
theorem exec_setSig0 (s : State) :
    exec .setSig0 s = .next ((s.setFlag (.sig 0)).audioShortcut.gate false) := rfl

/-- Settles O31: the shortcut raises the interrupt where the flag of the configuration says so. -/
theorem setSigZeroRaisesTheInterruptWhenAudioIsOn :
    Obligations.SetSigZeroRaisesTheInterruptWhenAudioIsOn := by
  refine fun s => ⟨_, onlyBit_setFlagIn _ (.sig 0) _, fun hon => ?_, fun hoff => ?_⟩
  · rw [exec_setSig0, State.audioShortcut, State.setFlag, if_pos hon]
    rfl
  · rw [exec_setSig0, State.audioShortcut, State.setFlag, if_neg (Bool.eq_false_iff.1 hoff)]

/-- The row of SET_INTR: the call that the parameter names, then the gating (R166). -/
theorem exec_setIntr (s : State) : exec .setIntr s = .next (s.intrSetCall.gate false) := rfl

/-- Settles O32: each row is its call, which sets or clears the pending bit, and then the gating. -/
theorem interruptCommandsCallTheController : Obligations.InterruptCommandsCallTheController := by
  refine fun s => ⟨rfl, fun hsched => ?_, fun hraise => ?_⟩
  · rw [exec_setIntr, State.intrSetCall, hsched]
    rfl
  · rw [exec_setIntr, State.intrSetCall, hraise]
    rfl

end Sys2Proof.Machine

/-! PROOF. What 42_dma.md says of a transfer: the quantities of its length word (R211 to R213), the
bytes it moves, those it leaves (R215 to R219), and that a transfer in and back out is the identity
on main memory (R222). -/

namespace Sys2Proof.Machine

/-! ## The length word -/

/-- An or with 7 rounds up to the last address of the block of eight (R211). -/
theorem or_seven_eq (n : Nat) : n ||| 7 = 8 * (n / 8) + 7 := by
  have low : n % 8 ||| 7 = 7 := by
    have : n % 8 < 8 := Nat.mod_lt n (by decide)
    interval_cases n % 8 <;> rfl
  calc n ||| 7 = (8 * (n / 8) + n % 8) ||| 7 := by rw [Nat.div_add_mod]
    _ = (8 * (n / 8) ||| n % 8) ||| 7 := by
      rw [Nat.two_pow_add_eq_or_of_lt (i := 3) (Nat.mod_lt n (by decide))]
    _ = 8 * (n / 8) ||| 7 := by rw [Nat.or_assoc, low]
    _ = 8 * (n / 8) + 7 := (Nat.two_pow_add_eq_or_of_lt (i := 3) (by decide) _).symm

theorem lengthToLocal_eq (l : BitVec 12) : lengthToLocal l = 8 * (l.toNat / 8) + 8 := by
  rw [lengthToLocal, or_seven_eq]

theorem lenRaw_toNat (L : Word) : (lenRaw L).toNat = L.toNat % 4096 := by
  rw [lenRaw, BitVec.extractLsb'_toNat, Nat.shiftRight_zero]

theorem lenCountM1_toNat (L : Word) : (lenCountM1 L).toNat = L.toNat / 4096 % 256 := by
  rw [lenCountM1, BitVec.extractLsb'_toNat, Nat.shiftRight_eq_div_pow]

theorem lenSkip_toNat (L : Word) : (lenSkip L).toNat = L.toNat / 1048576 := by
  have : L.toNat < 2 ^ 32 := L.isLt
  rw [lenSkip, BitVec.extractLsb'_toNat, Nat.shiftRight_eq_div_pow]
  omega

/-- Settles O36: each field is a run of the word's bits, and the or with 7 rounds up
(`or_seven_eq`). -/
theorem lengthWordGivesLengthCountAndSkip : Obligations.LengthWordGivesLengthCountAndSkip := by
  intro L
  refine ⟨?_, ?_, ?_, ?_⟩
  · rw [lengthToLocal_eq, lenRaw_toNat]
  · rw [lengthToMain, lenRaw_toNat]
  · rw [rowCount, lenCountM1_toNat]
  · rw [skipBytes, lenSkip_toNat]

/-! ## The bytes of one transfer -/

/-- The bytes of a transfer are numbered row by row, so a byte of a later row, or a later byte of
the same row, has the greater number. -/
theorem byteNumber_lt {len j i j' i' : Nat} (hi : i < len) (h : j < j' ∨ j = j' ∧ i < i') :
    j * len + i < j' * len + i' := by
  rcases h with hj | ⟨rfl, hi'⟩
  · have : (j + 1) * len ≤ j' * len := Nat.mul_le_mul_right len hj
    rw [Nat.add_mul, Nat.one_mul] at this
    omega
  · omega

/-- The number of a byte lies below the size of the transfer. -/
theorem byteNumber_lt_size {len n j i : Nat} (hj : j < n) (hi : i < len) :
    j * len + i < n * len := byteNumber_lt (i' := 0) hi (.inl hj)

section Transfers

variable (s : State) (skip : BitVec 12) (c : BitVec 8) (l : BitVec 12)

/-- The local address of byte `i` of row `j` before its reduction, for rows of `len` bytes (R217). -/
def State.localByteAddr (len j i : Nat) : Nat := localStart s.memAddr + j * len + i

/-- The main address of byte `i` of row `j` before its reduction, for rows of `len` bytes (R217). -/
def State.mainByteAddr (len j i : Nat) : Nat :=
  mainStart s.dramAddr + j * (len + skipBytes skip) + i

variable {s c l} {j i : Nat}

/-- A byte that no later byte of the transfer in overwrites arrives (R215, R217). -/
theorem State.lmRead_transferToLocal_last (h : s.lm.wf) (hj : j < rowCount c)
    (hi : i < lengthToLocal l)
    (hlast : ∀ j' i', j' < rowCount c → i' < lengthToLocal l →
      j * lengthToLocal l + i < j' * lengthToLocal l + i' →
      s.localByteAddr (lengthToLocal l) j' i' % localMemSize ≠
        s.localByteAddr (lengthToLocal l) j i % localMemSize) :
    (s.transferToLocal skip c l).lmRead (s.localByteAddr (lengthToLocal l) j i) =
      s.mainRead (s.mainByteAddr skip (lengthToLocal l) j i) :=
  copyRows_read_last lmPut_eq h hj hi fun j' i' hj' hi' hlt =>
    hlast j' i' hj' hi' (byteNumber_lt hi hlt)

/-- A local byte that no byte of the transfer in reaches stays (R219). -/
theorem State.lmRead_transferToLocal_other {a : Nat}
    (hmiss : ∀ j i, j < rowCount c → i < lengthToLocal l →
      s.localByteAddr (lengthToLocal l) j i % localMemSize ≠ a % localMemSize) :
    (s.transferToLocal skip c l).lmRead a = s.lmRead a :=
  copyRows_read_other lmPut_eq hmiss

/-- A byte that no later byte of the transfer out overwrites arrives (R216, R217). -/
theorem State.mainRead_transferToMain_last (h : s.main.wf) (hj : j < rowCount c)
    (hi : i < lengthToMain l)
    (hlast : ∀ j' i', j' < rowCount c → i' < lengthToMain l →
      j * lengthToMain l + i < j' * lengthToMain l + i' →
      s.mainByteAddr skip (lengthToMain l) j' i' % s.config.mainMemSize ≠
        s.mainByteAddr skip (lengthToMain l) j i % s.config.mainMemSize) :
    (s.transferToMain skip c l).mainRead (s.mainByteAddr skip (lengthToMain l) j i) =
      s.lmRead (s.localByteAddr (lengthToMain l) j i) :=
  copyRows_read_last (mainPut_eq s.config) h hj hi fun j' i' hj' hi' hlt heq =>
    hlast j' i' hj' hi' (byteNumber_lt hi hlt) (physAddr_inj s.config heq)

/-- A main byte that no byte of the transfer out reaches stays (R216, R219). -/
theorem State.mainRead_transferToMain_other {a : Nat}
    (hmiss : ∀ j i, j < rowCount c → i < lengthToMain l →
      s.mainByteAddr skip (lengthToMain l) j i % s.config.mainMemSize ≠
        a % s.config.mainMemSize) :
    (s.transferToMain skip c l).mainRead a = s.mainRead a :=
  copyRows_read_other (mainPut_eq s.config) fun j i hj hi heq =>
    hmiss j i hj hi (physAddr_inj s.config heq)

end Transfers

/-- Local memory reads at an address as at its reduction (R65). -/
theorem State.lmRead_mod (s : State) (a : Nat) : s.lmRead (a % localMemSize) = s.lmRead a := by
  rw [State.lmRead_eq, State.lmRead_eq, Nat.mod_mod]

/-- Settles O37: the last byte stored at a place stays, and a place that is not reached keeps its
byte. -/
theorem transferInCopiesRowsAndNothingElse : Obligations.TransferInCopiesRowsAndNothingElse := by
  rintro s skip cm l _ _ _ _ ⟨hlm, _⟩ rfl rfl rfl rfl
  refine ⟨s.transferToLocal skip cm l, rfl, rfl, fun j i hj hi hlast => ?_, fun a ha hmiss => ?_⟩
  · exact (State.lmRead_mod _ _).trans (State.lmRead_transferToLocal_last skip hlm hj hi hlast)
  · refine State.lmRead_transferToLocal_other skip fun j i hj hi => ?_
    rw [Nat.mod_eq_of_lt (b := localMemSize) ha]
    exact hmiss j i hj hi

/-- Settles O38: the last byte stored at a place stays, and a place that is not reached keeps its
byte; `BYTE_XOR` keeps different addresses apart. -/
theorem transferOutCopiesRowsAndNothingElse : Obligations.TransferOutCopiesRowsAndNothingElse := by
  rintro s skip cm l _ _ _ _ _ ⟨_, _, hmain, _⟩ rfl rfl rfl rfl rfl
  exact ⟨s.transferToMain skip cm l, rfl, rfl,
    fun _ _ => State.mainRead_transferToMain_last skip hmain,
    fun _ => State.mainRead_transferToMain_other skip⟩

/-! ## A transfer in and back out -/

/-- A transfer in that fits in local memory writes no local byte twice, so every byte arrives
(R222). -/
theorem State.lmRead_transferToLocal_of_fits {s : State} (h : s.lm.wf) (skip : BitVec 12)
    {c : BitVec 8} {l : BitVec 12} (hfit : rowCount c * lengthToLocal l ≤ localMemSize) {j i : Nat}
    (hj : j < rowCount c) (hi : i < lengthToLocal l) :
    (s.transferToLocal skip c l).lmRead (s.localByteAddr (lengthToLocal l) j i) =
      s.mainRead (s.mainByteAddr skip (lengthToLocal l) j i) := by
  refine State.lmRead_transferToLocal_last skip h hj hi fun j' i' hj' hi' hlt heq => ?_
  have hsize : j' * lengthToLocal l + i' < localMemSize :=
    Nat.lt_of_lt_of_le (byteNumber_lt_size hj' hi') hfit
  simp only [State.localByteAddr, Nat.add_assoc] at heq
  exact Nat.ne_of_gt hlt ((Nat.ModEq.add_left_cancel' _ heq).eq_of_lt_of_lt hsize
    (Nat.lt_trans hlt hsize))

/-- A transfer out of bytes that stand in main memory already changes nothing. -/
theorem State.main_transferToMain_of_same {s : State} (h : s.main.wf) (skip : BitVec 12)
    (c : BitVec 8) (l : BitVec 12)
    (hsame : ∀ j i, j < rowCount c → i < lengthToMain l →
      s.lmRead (s.localByteAddr (lengthToMain l) j i) =
        s.mainRead (s.mainByteAddr skip (lengthToMain l) j i)) :
    (s.transferToMain skip c l).main = s.main :=
  copyRows_id (mainPut_eq s.config) h hsame

/-- The rounding of a transfer in only adds bytes to a row (R211). -/
theorem lengthToMain_le_lengthToLocal (l : BitVec 12) : lengthToMain l ≤ lengthToLocal l := by
  rw [lengthToLocal_eq, lengthToMain]
  omega

/-- The two row lengths agree where the length is a multiple of 8 (R211). -/
theorem lengthToMain_eq_lengthToLocal {l : BitVec 12} (h : l.toNat % 8 = 7) :
    lengthToMain l = lengthToLocal l := by
  rw [lengthToLocal_eq, lengthToMain]
  omega

/-- The transfer back out of a transfer in that fits writes to every main byte what stands there, if
there is one row, whose start the row length does not move, or the row lengths agree (R222). -/
theorem State.main_transferToLocal_transferToMain {s : State} (hlm : s.lm.wf) (hmain : s.main.wf)
    (skip : BitVec 12) {c : BitVec 8} {l : BitVec 12}
    (hfit : rowCount c * lengthToLocal l ≤ localMemSize)
    (hrows : rowCount c = 1 ∨ lengthToMain l = lengthToLocal l) :
    ((s.transferToLocal skip c l).transferToMain skip c l).main = s.main := by
  refine State.main_transferToMain_of_same (s := s.transferToLocal skip c l) hmain skip c l
    fun j i hj hi => ?_
  have arrived := State.lmRead_transferToLocal_of_fits hlm skip hfit hj
    (Nat.lt_of_lt_of_le hi (lengthToMain_le_lengthToLocal l))
  rcases hrows with hone | hlen
  · obtain rfl : j = 0 := by omega
    simp only [State.localByteAddr, State.mainByteAddr, Nat.zero_mul] at arrived ⊢
    exact arrived
  · rw [hlen]
    exact arrived

/-- A full write to RD_LEN is the transfer in of the data as the length word (R120, R131). -/
theorem exec_wrRdLen_full (s : State) (L : Word) :
    exec (.wrRdLen L 0xFFFFFFFF#32) s =
      .next ({ s with rdLen := L }.transferToLocal (lenSkip L) (lenCountM1 L) (lenRaw L)) := by
  rw [exec_wrRdLen, maskedWrite_full, State.afterRdLen]

/-- A full write to WR_LEN is the transfer out of the data as the length word (R120, R132). -/
theorem exec_wrWrLen_full (s : State) (L : Word) :
    exec (.wrWrLen L 0xFFFFFFFF#32) s =
      .next ({ s with wrLen := L }.transferToMain (lenSkip L) (lenCountM1 L) (lenRaw L)) := by
  rw [exec_wrWrLen, maskedWrite_full, State.afterWrLen]

/-- Settles O39: the transfer out writes back what the transfer in read
(`State.main_transferToLocal_transferToMain`). -/
theorem transferInThenOutRestoresMainMemory : Obligations.TransferInThenOutRestoresMainMemory := by
  rintro s L _ ⟨hlm, _, hmain, _⟩ rfl hfit hrows
  refine ⟨_, _, exec_wrRdLen_full s L, exec_wrWrLen_full _ L, ?_, rfl⟩
  refine State.main_transferToLocal_transferToMain (s := { s with rdLen := L }) hlm hmain _ ?_ ?_
  · rw [rowCount, lengthToLocal, lenCountM1_toNat, lenRaw_toNat]
    exact hfit
  · refine hrows.imp (fun hone => ?_) fun hlen => lengthToMain_eq_lengthToLocal ?_
    · rw [rowCount, lenCountM1_toNat, hone]
    · rw [lenRaw_toNat]
      omega

end Sys2Proof.Machine

/-! PROOF. What 43_dispatch.md says of a task: the executor call and its answer (R246), the three
paths (R242 to R245), the post-run step and its completion event (R247, R248), the re-dispatch
request (R249), and what holds of every dispatch (R250 to R252). -/

namespace Sys2Proof.Machine

/-! ## The executor call -/

section ExecutorCall

variable {s : State} {k : EventKind}

theorem State.fireEvent_of_first {before after : List Event} {e : Event} (hk : e.kind = k)
    (hbefore : ∀ e' ∈ before, e'.kind ≠ k) (ht : s.timeline = before ++ e :: after) :
    s.fireEvent k = { s with timeline := before ++ after } := by
  rw [State.fireEvent, ht, List.eraseP_append_right _ (by simpa using hbefore),
    List.eraseP_cons_of_pos (by simpa using hk)]

theorem State.fireEvent_of_none (h : ∀ e ∈ s.timeline, e.kind ≠ k) : s.fireEvent k = s := by
  rw [State.fireEvent, List.eraseP_of_forall_not (by simpa using h)]

theorem State.fireEvent_withdrawn (s : State) (k : EventKind) : Withdrawn k s (s.fireEvent k) :=
  ⟨fun _ _ _ hk hbefore ht => State.fireEvent_of_first hk hbefore ht, State.fireEvent_of_none⟩

theorem State.applyEnv_done (h : s.main.wf) (e : EnvEdit) : EnvDone e s (s.applyEnv e) := by
  cases e with
  | fireDpInt => exact s.fireEvent_withdrawn .dpInt
  | main a b =>
    exact ⟨rfl, State.mainRead_mainWrite_same h a b,
      fun _ hne => State.mainRead_mainWrite_other s b hne⟩
  | _ => exact rfl

/-- Each change of an answer is made in full, and nothing beside it. -/
theorem State.applyExec_done (h : s.Inv) (e : ExecEdit) : EditDone e s (s.applyExec e) := by
  obtain ⟨hlm, _, hmain, _, hpr, _⟩ := h
  cases e with
  | env e => exact State.applyEnv_done hmain e
  | schedule e => exact rfl
  | unschedule k => exact s.fireEvent_withdrawn k
  | ctrl r v =>
    refine ⟨?_, fun r' hne => ?_, by cases r <;> rfl⟩
    · exact (s.ctrl_setCtrl r r v).trans (if_pos rfl)
    · exact (s.ctrl_setCtrl r r' v).trans (if_neg hne.symm)
  | pr k v =>
    refine ⟨State.pr_setPr_same hpr k v, fun _ hne => State.pr_setPr_other s v hne, ?_⟩
    simp only [State.applyExec, State.setPr]
    split <;> rfl
  | lm a b =>
    exact ⟨State.lmRead_lmWrite_same hlm a b, fun _ hne => State.lmRead_lmWrite_other s b hne, rfl⟩

theorem State.execCall_of_script {es : List ExecEdit} {rest : List (List ExecEdit)}
    (h : s.execScript = es :: rest) (k : ExecKind) :
    s.execCall k = { (s.record (s.execCallRecord k)).applyExecs es with
      execScript := rest, execCount := s.execCount + 1 } := by
  rw [State.execCall, State.execAnswer, h]
  rfl

/-- With the script used up, the call goes as if the script held the free value. -/
theorem State.execCall_of_no_script (h : s.execScript = []) (k : ExecKind) :
    s.execCall k = { s with execScript := [Config.executor (s.execView k)] }.execCall k := by
  have hfree : s.execAnswer k = Config.executor (s.execView k) := by rw [State.execAnswer, h]
  rw [State.execCall_of_script (s := { s with execScript := [_] }) rfl, State.execCall, hfree, h]
  exact congrArg (fun u : State => { u with execScript := [], execCount := s.execCount + 1 })
    (State.applyExecs_script (s.record (s.execCallRecord k)) _ _ s.execCount).symm

end ExecutorCall

/-- Settles O40: what every call keeps (`State.execCall_frame`), and, from the empty answer up, one
change after the other (`State.execCall_snoc`, `State.applyExec_done`). -/
theorem executorCallAppliesItsAnswer : Obligations.ExecutorCallAppliesItsAnswer := by
  intro s k
  obtain ⟨hconfig, hlock, hrdata, hcalls, hreq, hscript, hcount⟩ := s.execCall_frame k
  refine ⟨⟨?_, hconfig, hlock, hrdata, hreq, hcount, hscript⟩, fun rest h => ?_,
    fun es e rest hinv h => ?_, fun h => State.execCall_of_no_script h k⟩
  · cases k <;> exact hcalls
  · rw [State.execCall_of_script h]
    rfl
  · rw [State.execCall_snoc h]
    have hcall := State.Inv.execCall (s := { s with execScript := es :: rest }) hinv k
    exact State.applyExec_done hcall e

/-! ## The three paths -/

theorem exec_postrun (s : State) : exec .postrun s = .next s.postRun := rfl

theorem exec_dispatchGfx (s : State) : exec .dispatchGfx s = .next s.dispatchGraphics := rfl

/-- The post-run step after a masked executor call (R245). -/
theorem exec_postrun_runMasked (s : State) (k : ExecKind) :
    exec .postrun { ({ s with pc := s.pc &&& s.config.pcMask } : State).execCall k with
      pc := maskedWrite s.pc (({ s with pc := s.pc &&& s.config.pcMask } : State).execCall k).pc
        s.config.pcMask } = .next (s.runMasked k).postRun := by
  rw [exec_postrun, s.runMasked_eq k]

/-- Settles O41: `State.runMasked` is the masked call with the bits outside the mask restored
(`exec_postrun_runMasked`). -/
theorem defaultPathRunsThePrimaryExecutor : Obligations.DefaultPathRunsThePrimaryExecutor :=
  fun s _ => ⟨_, _, _, rfl, merged_maskedWrite _ _ _, rfl, exec_postrun_runMasked s .primary⟩

/-- Settles O42, as O41 with the executor of the configuration. -/
theorem audioPathRunsTheConfiguredExecutor : Obligations.AudioPathRunsTheConfiguredExecutor :=
  fun s => ⟨_, _, _, rfl, merged_maskedWrite _ _ _, rfl, exec_postrun_runMasked s _⟩

theorem State.dispatchGraphics_of_frozen {s : State} (hskip : s.config.skipFreezeCheck = false)
    (hfrozen : s.frozen = true) : s.dispatchGraphics = s.record (.isFrozen true) := by
  rw [State.dispatchGraphics, hskip, hfrozen]
  rfl

theorem State.dispatchGraphics_of_not_deferred {s : State}
    (h : s.config.skipFreezeCheck = true ∨ s.frozen = false) :
    s.dispatchGraphics = ({ s with calls := s.calls ++
      (if s.config.skipFreezeCheck then [] else [Call.isFrozen false]) } : State).runGraphics := by
  rcases s.dispatchGraphics_cases with ⟨hskip, hfrozen, _⟩ | ⟨hskip, e⟩ | ⟨hskip, _, e⟩
  · simp [hskip, hfrozen] at h
  · rw [e, hskip, if_pos rfl, List.append_nil]
  · rw [e, hskip]
    rfl

/-- Settles O43, by `State.runGraphics_eq`. -/
theorem graphicsPathWhenNotFrozen : Obligations.GraphicsPathWhenNotFrozen := by
  intro s h
  refine ⟨_, _, _, rfl, merged_maskedWrite _ _ _, rfl, ?_⟩
  rw [exec_postrun, State.dispatchGraphics_of_not_deferred h, State.runGraphics_eq _ _ rfl]

/-- Settles O44. -/
theorem frozenGraphicsTaskIsDeferred : Obligations.FrozenGraphicsTaskIsDeferred := by
  intro s hskip hfrozen
  rw [exec_dispatchGfx, State.dispatchGraphics_of_frozen hskip hfrozen]
  rfl

/-! ## The post-run step, delivery, the re-dispatch request -/

theorem State.isRunning_eq_false_iff (s : State) : s.isRunning = false ↔
    s.status.getLsbD s.config.flagBits.halt = true ∨
      s.status.getLsbD s.config.flagBits.broke = true := by
  rw [← Bool.not_eq_true, s.isRunning_iff, Decidable.not_and_iff_or_not, Bool.not_eq_false,
    Bool.not_eq_false]

/-- Settles O45: `State.isRunning` picks the outcome of `State.postRun_cases`. -/
theorem postRunLocksAndSchedulesWhileRunning :
    Obligations.PostRunLocksAndSchedulesWhileRunning := by
  rintro s _ rfl
  rw [exec_postrun, ← s.isRunning_iff, ← s.isRunning_eq_false_iff]
  rcases s.postRun_cases with ⟨hrun, e⟩ | ⟨hrun, e⟩ <;> rw [e, hrun]
  · exact ⟨fun _ => rfl, Bool.noConfusion⟩
  · exact ⟨Bool.noConfusion, fun _ => rfl⟩

/-- Settles O46: the first event goes (`State.fireEvent_of_first`), and INTR_ON_BREAK decides. -/
theorem deliveryRaisesIfIntrOnBreakIsSet : Obligations.DeliveryRaisesIfIntrOnBreakIsSet := by
  rintro s e before after raised hk hbefore ht hraised
  have hflag : s.flag .intrOnBreak = raised := hraised.symm
  rw [exec, execDeliverSpInt, hflag, State.fireEvent_of_first hk hbefore ht, State.deliveryLock_eq]
  cases raised <;> simp [State.raiseInterrupt, State.record]

theorem State.dispatch_of_tag_one {s : State} (h : s.taskTag = 1) :
    s.dispatch = s.dispatchGraphics := if_pos h

theorem State.dispatch_of_tag_two {s : State} (h : s.taskTag = 2) :
    s.dispatch = s.dispatchAudio := by
  rw [State.dispatch, h]
  rfl

theorem State.dispatch_of_tag_other {s : State} (h1 : s.taskTag ≠ 1) (h2 : s.taskTag ≠ 2) :
    s.dispatch = s.dispatchOther := by
  rw [State.dispatch, if_neg h1, if_neg h2]

/-- Settles O47: past the test of the two flags the tag picks the path. -/
theorem redispatchTakesThePathOfTheTag : Obligations.RedispatchTakesThePathOfTheTag := by
  rintro s _ rfl
  rw [← s.isRunning_eq_false_iff, exec_redispatch]
  refine ⟨fun hstop => ?_, fun hhalt hbroke => ?_⟩
  · rw [hstop]
    rfl
  · rw [if_pos (s.isRunning_iff.2 ⟨hhalt, hbroke⟩)]
    refine ⟨fun h => ⟨_, rfl, ?_⟩, fun h => ⟨_, rfl, ?_⟩, fun h1 h2 => ⟨_, rfl, ?_⟩⟩
    · rw [State.dispatch_of_tag_one h]
      rfl
    · rw [State.dispatch_of_tag_two h]
      rfl
    · rw [State.dispatch_of_tag_other h1 h2]
      rfl

/-! ## Every dispatch -/

/-- The three rows that name a path of the dispatcher. -/
theorem exec_dispatchRow_frame {s t : State} {i : Instr} {tag : Word}
    (hi : i ∈ [.dispatchGfx, .dispatchAudio, .dispatchOther tag]) (h : exec i s = .next t) :
    DispatchFrame s t := by
  simp only [List.mem_cons, List.not_mem_nil, or_false] at hi
  rcases hi with rfl | rfl | rfl <;> cases h
  · exact s.dispatchGraphics_frame
  · exact s.dispatchAudio_frame
  · exact s.dispatchOther_frame

/-- Settles O50, which is part of `DispatchFrame`. -/
theorem oneDispatchRunsAndSchedulesAtMostOnce :
    Obligations.OneDispatchRunsAndSchedulesAtMostOnce := by
  intro s t i tag hi h
  obtain ⟨new, hcalls, hrun, hsp, hdp, _⟩ := (exec_dispatchRow_frame hi h).calls
  exact ⟨new, hcalls, hrun, hsp, hdp⟩

/-- Settles O51: a path that called an executor ends in the post-run step (`DispatchFrame.ran`). -/
theorem dispatchKeepsHighPcBitsAndLocksWhileRunning :
    Obligations.DispatchKeepsHighPcBitsAndLocksWhileRunning := by
  intro s t i tag hi h
  have hf := exec_dispatchRow_frame hi h
  refine ⟨hf.highPc, fun hn => ?_⟩
  obtain ⟨_, _, hlock, hlast⟩ := hf.ran hn
  have hrunning : running s.config.flagBits t.status = t.isRunning := by
    rw [State.isRunning, hf.config]
  rw [hlock, hrunning, ← hf.config, ← t.isRunning_iff]
  rw [hrunning, ← hf.config] at hlast
  exact ⟨Iff.rfl, hlast⟩

/-! ## The dispatch-gating property -/

section Gating

variable {s t u : State}

theorem callCount_append (p : Call → Bool) (cs ds : List Call) :
    callCount p (cs ++ ds) = callCount p cs + callCount p ds := by
  simp [callCount]

theorem NoRun.refl (s : State) : NoRun s s := ⟨rfl, rfl⟩

theorem NoRun.trans (h : NoRun s t) (h' : NoRun t u) : NoRun s u :=
  ⟨h'.1.trans h.1, h'.2.trans h.2⟩

theorem State.record_noRun (s : State) {c : Call} (h : c.isRun = false) : NoRun s (s.record c) := by
  refine ⟨rfl, ?_⟩
  rw [State.record_calls, callCount_append, callCount, callCount, List.filter_singleton, h]
  rfl

/-- The effects of a STATUS write call the interrupt controller and no one else (R285). -/
theorem State.statusEffects_calls (s : State) (w : Word) :
    ∃ new, (s.statusEffects w).calls = s.calls ++ new ∧ ∀ c ∈ new, c.isIntr := by
  rw [s.statusEffects_eq w]
  refine ⟨_ ++ (_ ++ _), by simp only [List.append_assoc]; rfl, fun c hc => ?_⟩
  simp only [List.mem_append, List.mem_ite_nil_right, List.mem_singleton] at hc
  rcases hc with ⟨_, rfl⟩ | ⟨_, rfl⟩ | ⟨_, rfl⟩
  · exact .inr (.inl rfl)
  · split
    · exact .inl rfl
    · exact .inr (.inr rfl)
  · exact .inl rfl

theorem State.callCount_statusEffects {p : Call → Bool} (hp : ∀ c : Call, c.isIntr → p c = false)
    (s : State) (w : Word) : callCount p (s.statusEffects w).calls = callCount p s.calls := by
  obtain ⟨new, hcalls, hintr⟩ := s.statusEffects_calls w
  have hnone : callCount p new = 0 := by
    rw [callCount, List.filter_eq_nil_iff.2 fun c hc => Bool.eq_false_iff.1 (hp c (hintr c hc)),
      List.length_nil]
  rw [hcalls, callCount_append, hnone, Nat.add_zero]

theorem State.statusEffects_noRun (s : State) (w : Word) : NoRun s (s.statusEffects w) := by
  refine ⟨by rw [s.statusEffects_eq w], s.callCount_statusEffects ?_ w⟩
  rintro c (rfl | rfl | rfl) <;> rfl

/-- A write whose effects leave HALT or BROKE set ends without a dispatch (R191). -/
theorem State.gate_of_stopped (h : s.isRunning = false) (c : Bool) : s.gate c = s := by
  rcases s.gate_cases c with ⟨e, _⟩ | ⟨_, hrun, _⟩
  · exact e
  · exact Bool.noConfusion (h.symm.trans hrun)

theorem exec_wrStatus_noRun_of_halt {v m : Word}
    (hhalt : (s.statusEffects (v &&& m)).status.getLsbD s.config.flagBits.halt = true)
    (h : exec (.wrStatus v m) s = .next t) : NoRun s t := by
  have hc : (s.statusEffects (v &&& m)).config = s.config := by rw [s.statusEffects_eq]
  rw [← hc] at hhalt
  rw [exec_wrStatus_gate, State.gate_of_stopped
    ((State.isRunning_eq_false_iff _).2 (.inl hhalt))] at h
  cases h
  exact s.statusEffects_noRun _

theorem exec_redispatch_noRun_of_halt (hhalt : s.status.getLsbD s.config.flagBits.halt = true)
    (h : exec .redispatch s = .next t) : NoRun s t := by
  rw [exec_redispatch, s.isRunning_eq_false_iff.2 (.inl hhalt)] at h
  cases h
  exact .refl s

theorem exec_plain_noRun {i : Instr} (hm : i.mayDispatch = false) (h : exec i s = .next t) :
    NoRun s t := by
  obtain ⟨_, _, hn, _, hcalls⟩ := exec_plain_frame hm h
  refine ⟨hn, ?_⟩
  rcases hcalls with e | ⟨_, e⟩ <;> rw [e]
  rw [callCount_append]
  rfl

/-- CLR_HALT without SET_HALT starts a task that is not locked and shows no BROKE (R190, R191). -/
theorem exec_wrStatus_of_clrHalt {v m : Word} (hlock : s.taskLocked = false)
    (hbroke : s.status.getLsbD s.config.flagBits.broke = false)
    (hclr : (v &&& m).getLsbD s.config.cmdBits.clrHalt = true)
    (hset : (v &&& m).getLsbD s.config.cmdBits.setHalt = false) :
    exec (.wrStatus v m) s = .next (s.statusEffects (v &&& m)).dispatch := by
  have hpresent : Command.clrHalt.present s.config.cmdBits (v &&& m) = true := hclr
  have habsent : Command.setHalt.present s.config.cmdBits (v &&& m) = false := hset
  have hrun : (s.statusEffects (v &&& m)).isRunning = true := by
    rw [s.statusEffects_eq, State.isRunning_iff]
    refine ⟨?_, Bool.eq_false_iff.2 fun hb => ?_⟩
    · refine (passes_flag_commands s.config (v &&& m) s.status .halt).trans ?_
      rw [setCommand, clearCommand, Option.any_some, habsent, hpresent, Bool.not_true,
        Bool.and_false, Bool.or_false]
    · exact Bool.noConfusion (hbroke.symm.trans (broke_of_passes_broke s.config _ _ hb))
  rw [exec_wrStatus_gate, hclr, Bool.true_or, State.gate_of_passed
    (.inl ((s.statusEffects_gates _).1.trans hlock)) (.inl rfl), if_pos hrun]

theorem State.postRun_execCount (s : State) : s.postRun.execCount = s.execCount := by
  rcases s.postRun_cases with ⟨_, e⟩ | ⟨_, e⟩ <;> rw [e]

theorem State.runGraphics_execCount (s : State) :
    s.runGraphics.execCount = s.execCount + 1 := by
  obtain ⟨_, _, _, _, _, _, hcount, _⟩ := s.unprotectFramebuffers.runMasked_frame .primary
  simpa [State.runGraphics, State.postRun_execCount] using hcount

/-- What a dispatch that called an executor adds to the counts. -/
theorem DispatchFrame.counts_of_ran (hf : DispatchFrame s t) (hn : t.execCount ≠ s.execCount) :
    callCount Call.isRun t.calls = callCount Call.isRun s.calls + 1 ∧
      callCount (Call.schedules .spInt) t.calls = callCount (Call.schedules .spInt) s.calls +
        if t.isRunning then 1 else 0 := by
  obtain ⟨new, hcalls, _, _, _, _, _, hran⟩ := hf.calls
  obtain ⟨hrun, hsp⟩ := hran hn
  rw [hcalls, callCount_append, callCount_append, hrun, hsp, State.isRunning, hf.config]
  exact ⟨rfl, rfl⟩

theorem State.dispatchGraphics_execCount (h : s.config.skipFreezeCheck = true ∨ s.frozen = false) :
    s.dispatchGraphics.execCount = s.execCount + 1 := by
  rw [State.dispatchGraphics_of_not_deferred h, State.runGraphics_execCount]

end Gating

/-- Settles O49: no path past the gates or the test of a re-dispatch is open with HALT set, and the
write that opens it takes the graphics path for tag 1. -/
theorem dispatchGatingProperty : Obligations.DispatchGatingProperty := by
  refine ⟨fun s t v m => exec_wrStatus_noRun_of_halt, fun s t => exec_redispatch_noRun_of_halt,
    fun i s t => exec_plain_noRun, ?_⟩
  rintro s v m _ _ rfl rfl hlock hbroke htag hclr hset
  have hnoRun := s.statusEffects_noRun (v &&& m)
  have hsched := s.callCount_statusEffects (p := Call.schedules .spInt)
    (by rintro _ (rfl | rfl | rfl) <;> rfl) (v &&& m)
  obtain ⟨htagu, hconfig, hfrozenu, hlocku⟩ : (s.statusEffects (v &&& m)).taskTag = 1 ∧
      (s.statusEffects (v &&& m)).config = s.config ∧
      (s.statusEffects (v &&& m)).frozen = s.frozen ∧
      (s.statusEffects (v &&& m)).taskLocked = false := by
    rw [s.statusEffects_eq]
    exact ⟨htag, rfl, rfl, hlock⟩
  refine ⟨_, exec_wrStatus_of_clrHalt hlock hbroke hclr hset, ?_⟩
  rw [State.dispatch_of_tag_one htagu, ← hconfig, ← hfrozenu]
  generalize s.statusEffects (v &&& m) = u at *
  refine ⟨fun hskip hfrozen => ?_, fun hopen => ?_⟩
  · rw [State.dispatchGraphics_of_frozen hskip hfrozen]
    exact ⟨hnoRun.trans (u.record_noRun rfl), hlocku⟩
  · have hcount := State.dispatchGraphics_execCount hopen
    obtain ⟨hrun, hsp⟩ := u.dispatchGraphics_frame.counts_of_ran (by omega)
    refine ⟨by rw [hrun, hnoRun.2], by rw [hcount, hnoRun.1], fun hhalt hbroke => ?_⟩
    rw [← u.dispatchGraphics_frame.config] at hhalt hbroke
    rw [hsp, hsched, if_pos ((State.isRunning_iff _).2 ⟨hhalt, hbroke⟩)]

/-! ## At most one completion event -/

section Outstanding

variable {s t : State} {k : EventKind}

theorem State.outstanding_eq_zero_iff : s.outstanding k = 0 ↔ ∀ e ∈ s.timeline, e.kind ≠ k := by
  simp [State.outstanding]

theorem State.outstanding_congr (h : t.timeline = s.timeline) :
    t.outstanding k = s.outstanding k := by
  rw [State.outstanding, h, State.outstanding]

theorem State.outstanding_of_append {es : List Event} (h : s.outstanding k = 0)
    (ht : t.timeline = s.timeline ++ es) (hes : ∀ e ∈ es, e.kind ≠ k) : t.outstanding k = 0 := by
  rw [State.outstanding_eq_zero_iff] at h ⊢
  intro e he
  rw [ht] at he
  exact (List.mem_append.1 he).elim (h e) (hes e)

theorem State.outstanding_fireEvent_of_none (k' : EventKind) (h : s.outstanding k = 0) :
    (s.fireEvent k').outstanding k = 0 := by
  rw [State.outstanding_eq_zero_iff] at h ⊢
  exact fun e he => h e (List.mem_of_mem_eraseP he)

/-- Of at most one event outstanding none is left when one is taken off. -/
theorem State.outstanding_fireEvent_of_le_one (h : s.outstanding k ≤ 1) :
    (s.fireEvent k).outstanding k = 0 := by
  have hcomm := List.eraseP_filter (p := (·.kind == k)) (f := (·.kind == k)) (l := s.timeline)
  simp only [Bool.and_self] at hcomm
  rw [State.outstanding] at h
  rw [State.outstanding, State.fireEvent_timeline, ← hcomm]
  cases hf : s.timeline.filter (·.kind == k) with
  | nil => rfl
  | cons e rest =>
    have hmem : e ∈ s.timeline.filter (·.kind == k) := hf ▸ List.mem_cons_self
    obtain ⟨_, hk⟩ := List.mem_filter.1 hmem
    rw [hf, List.length_cons] at h
    rw [List.eraseP_cons, hk, cond_true]
    omega

theorem State.SingleCompletion.congr (h : s.SingleCompletion) (ht : t.timeline = s.timeline)
    (hl : t.taskLocked = s.taskLocked) : t.SingleCompletion := by
  rw [State.SingleCompletion, State.outstanding_congr ht, hl]
  exact h

theorem State.singleCompletion_of_none (h : s.outstanding .spInt = 0) : s.SingleCompletion :=
  ⟨by omega, by omega⟩

/-- The gates let a write pass only where no completion event is outstanding (R189). -/
theorem State.SingleCompletion.none_of_passed (h : s.SingleCompletion)
    (hg : s.taskLocked = false ∨ s.eventPending .spInt = false) : s.outstanding .spInt = 0 := by
  obtain ⟨hle, hlock⟩ := h
  rcases hg with hg | hg
  · have : s.outstanding .spInt ≠ 1 := fun h1 => Bool.noConfusion (hg.symm.trans (hlock h1))
    omega
  · refine State.outstanding_eq_zero_iff.2 fun e he hk => ?_
    exact Bool.noConfusion (hg.symm.trans ((s.eventPending_iff _).2 ⟨e, he, hk⟩))

/-- The post-run step schedules one event, and locks the task with it (R247). -/
theorem State.postRun_singleCompletion (h : s.outstanding .spInt = 0) :
    s.postRun.SingleCompletion := by
  rcases s.postRun_cases with ⟨_, e⟩ | ⟨_, e⟩ <;> rw [e]
  · refine ⟨Nat.le_of_eq ?_, fun _ => rfl⟩
    rw [State.outstanding] at h ⊢
    rw [List.filter_append, List.length_append, h]
    rfl
  · exact State.singleCompletion_of_none h

/-! ### An executor that leaves the completion events to the block -/

theorem State.outstanding_applyExec {e : ExecEdit} (h : s.outstanding .spInt = 0)
    (he : ∀ d, e ≠ .schedule ⟨.spInt, d⟩) : (s.applyExec e).outstanding .spInt = 0 := by
  cases e with
  | env e =>
    cases e with
    | fireDpInt => exact State.outstanding_fireEvent_of_none .dpInt h
    | _ => exact h
  | schedule e =>
    refine State.outstanding_of_append h rfl fun e' he' hk => ?_
    rw [List.mem_singleton.1 he'] at hk
    exact he e.delay (hk ▸ rfl)
  | unschedule k => exact State.outstanding_fireEvent_of_none k h
  | ctrl r v => exact (State.outstanding_congr (by simp [State.applyExec])).trans h
  | pr k v => exact (State.outstanding_congr (by simp [State.applyExec])).trans h
  | lm a b => exact h

theorem State.outstanding_applyExecs {es : List ExecEdit} (h : s.outstanding .spInt = 0)
    (hes : LeavesCompletion es) : (s.applyExecs es).outstanding .spInt = 0 := by
  unfold State.applyExecs
  induction es generalizing s with
  | nil => exact h
  | cons e es ih =>
    exact ih (State.outstanding_applyExec h (hes e List.mem_cons_self))
      fun e' he' => hes e' (List.mem_cons_of_mem e he')

theorem State.NextAnswerLeavesCompletion.congr (h : s.NextAnswerLeavesCompletion)
    (hs : t.execScript = s.execScript) (hn : t.execCount = s.execCount)
    (hc : t.config = s.config) : t.NextAnswerLeavesCompletion := by
  unfold State.NextAnswerLeavesCompletion
  rw [hs, hn, hc]
  exact h

theorem State.NextAnswerLeavesCompletion.answer (h : s.NextAnswerLeavesCompletion) (k : ExecKind) :
    LeavesCompletion (s.execAnswer k) := by
  cases hscript : s.execScript with
  | nil =>
    rw [State.NextAnswerLeavesCompletion, hscript] at h
    rw [State.execAnswer, hscript]
    exact h _ rfl rfl
  | cons es rest =>
    rw [State.NextAnswerLeavesCompletion, hscript] at h
    rw [State.execAnswer, hscript]
    exact h

theorem State.outstanding_execCall (h : s.outstanding .spInt = 0)
    (hl : s.NextAnswerLeavesCompletion) (k : ExecKind) : (s.execCall k).outstanding .spInt = 0 :=
  State.outstanding_applyExecs (s := s.record _) h (hl.answer k)

theorem State.outstanding_runMasked (h : s.outstanding .spInt = 0)
    (hl : s.NextAnswerLeavesCompletion) (k : ExecKind) :
    (s.runMasked k).outstanding .spInt = 0 :=
  State.outstanding_execCall (s := { s with pc := s.pc &&& s.config.pcMask }) h hl k

theorem State.outstanding_displayEvent (h : s.outstanding .spInt = 0) :
    s.displayEvent.outstanding .spInt = 0 := by
  unfold State.displayEvent
  cases s.rasterIntr
  · exact h
  · exact State.outstanding_of_append h rfl (by simp)

theorem State.runGraphics_singleCompletion (h : s.outstanding .spInt = 0)
    (hl : s.NextAnswerLeavesCompletion) : s.runGraphics.SingleCompletion := by
  refine State.postRun_singleCompletion (s := State.protectFramebuffers _) ?_
  refine State.outstanding_displayEvent (s := State.newFrame _) ?_
  exact State.outstanding_runMasked (s := s.unprotectFramebuffers) h hl .primary

theorem State.dispatchGraphics_singleCompletion (h : s.outstanding .spInt = 0)
    (hl : s.NextAnswerLeavesCompletion) : s.dispatchGraphics.SingleCompletion := by
  rcases s.dispatchGraphics_cases with ⟨_, _, e⟩ | ⟨_, e⟩ | ⟨_, _, e⟩ <;> rw [e]
  · exact State.singleCompletion_of_none h
  · exact State.runGraphics_singleCompletion h hl
  · exact State.runGraphics_singleCompletion (s := s.record _) h hl

theorem State.runMasked_postRun_singleCompletion (h : s.outstanding .spInt = 0)
    (hl : s.NextAnswerLeavesCompletion) (k : ExecKind) :
    (s.runMasked k).postRun.SingleCompletion :=
  State.postRun_singleCompletion (State.outstanding_runMasked h hl k)

theorem State.dispatch_singleCompletion (h : s.outstanding .spInt = 0)
    (hl : s.NextAnswerLeavesCompletion) : s.dispatch.SingleCompletion := by
  rcases s.dispatch_cases with ⟨e, _⟩ | ⟨e, _⟩ | ⟨e, _⟩ <;> rw [e]
  · exact State.dispatchGraphics_singleCompletion h hl
  · exact State.runMasked_postRun_singleCompletion h hl _
  · exact State.runMasked_postRun_singleCompletion h hl .primary

/-! ### Each operation -/

/-- A dispatch that called no executor left the timeline alone (R250), so only one that did has to
be looked at. -/
theorem DispatchFrame.singleCompletion (hf : DispatchFrame s t) (h : s.outstanding .spInt = 0)
    (hran : t.execCount ≠ s.execCount → t.SingleCompletion) : t.SingleCompletion := by
  by_cases hn : t.execCount = s.execCount
  · rcases hf.deferred hn with rfl | rfl <;> exact State.singleCompletion_of_none h
  · exact hran hn

theorem State.gate_singleCompletion {c : Bool} (h : s.SingleCompletion)
    (hl : (s.gate c).execCount ≠ s.execCount → s.NextAnswerLeavesCompletion) :
    (s.gate c).SingleCompletion := by
  have hf := s.gate_frame c
  rcases s.gate_cases c with ⟨e, _⟩ | ⟨e, _, hpass, _⟩
  · rw [e]
    exact h
  · have h0 := h.none_of_passed hpass
    rw [e] at hf hl ⊢
    exact hf.singleCompletion h0 fun hn => State.dispatch_singleCompletion h0 (hl hn)

theorem State.applyStatusWrite_singleCompletion {w : Word} (h : s.SingleCompletion)
    (hl : (s.applyStatusWrite w).execCount ≠ s.execCount → s.NextAnswerLeavesCompletion) :
    (s.applyStatusWrite w).SingleCompletion := by
  unfold State.applyStatusWrite at hl ⊢
  rw [s.statusEffects_eq w] at hl ⊢
  exact State.gate_singleCompletion (h.congr rfl rfl) fun hn => (hl hn).congr rfl rfl rfl

theorem State.SingleCompletion.exec_plain {i : Instr} (h : s.SingleCompletion)
    (hm : i.mayDispatch = false) (hr : i = .reset → s.outstanding .spInt = 0)
    (he : exec i s = .next t) : t.SingleCompletion := by
  cases i with
  | rdMemAddr | rdDramAddr | rdRdLen | rdWrLen | rdStatus | rdDmaFull | rdDmaBusy | rdPc
  | rdPcreg k | rdMem a | rdSemaphore | wrDmaFull v m | wrDmaBusy v m | wrRdLen v m | wrWrLen v m
  | dmaToLocal k c l | dmaToMain k c l =>
    cases he
    exact h
  | wrMemAddr v m | wrDramAddr v m | wrSemaphore v m | wrPc v m | wrPcreg k v m | wrMem a v m =>
    cases he
    exact h.congr (by simp) (by simp)
  | deliverSpInt =>
    cases he
    have hnone : (s.fireEvent .spInt).outstanding .spInt = 0 :=
      State.outstanding_fireEvent_of_le_one h.1
    simp only [State.deliveryLock_eq]
    cases s.flag .intrOnBreak <;> exact State.singleCompletion_of_none hnone
  | reset =>
    cases he
    exact State.singleCompletion_of_none (s := s.resetBlock) (hr rfl)
  | _ => exact absurd hm Bool.noConfusion

end Outstanding

/-- Settles O57, by the kinds of operation (`exec_cases`): the gates let a STATUS write dispatch
only where no event is outstanding, and from there every path schedules one at most, as it locks
the task. -/
theorem atMostOneCompletionEventIsOutstanding :
    Obligations.AtMostOneCompletionEventIsOutstanding := by
  intro i s t h hungated he hl
  rcases exec_cases he with hm | ⟨rfl, rfl⟩ | ⟨w, rfl, _⟩ | ⟨hf, hi⟩
  · exact h.exec_plain hm (fun hr => hungated ⟨0, by simp [hr]⟩) he
  · exact State.postRun_singleCompletion (hungated ⟨0, by simp⟩)
  · exact State.applyStatusWrite_singleCompletion h hl
  · have h0 : s.outstanding .spInt = 0 := by
      apply hungated
      rcases hi with rfl | rfl | ⟨tag, rfl⟩ | rfl
      exacts [⟨0, by simp⟩, ⟨0, by simp⟩, ⟨tag, by simp⟩, ⟨0, by simp⟩]
    refine hf.singleCompletion h0 fun hn => ?_
    rcases hi with rfl | rfl | ⟨tag, rfl⟩ | rfl <;> cases he
    · exact State.dispatchGraphics_singleCompletion h0 (hl hn)
    · exact State.runMasked_postRun_singleCompletion h0 (hl hn) _
    · exact State.runMasked_postRun_singleCompletion h0 (hl hn) _
    · split
      · exact State.dispatch_singleCompletion h0 (hl hn)
      · exact h

end Sys2Proof.Machine

/-! PROOF. What 60_exceptions.md says of the interrupt and of the HALT flag: the paths by which the
block touches the `SP` source (R282), and what STATUS does not gate (R294). -/

namespace Sys2Proof.Machine

/-! ## The paths to the interrupt controller -/

/-- `i` delivers the command `c` to STATUS: its own row, or a write whose masked word carries it. -/
def Delivers (b : CmdBits) (i : Instr) (c : Command) : Prop :=
  i = c.instr ∨ ∃ v m, i = .wrStatus v m ∧ c.present b (v &&& m) = true

/-- The paths of R282: why `i`, run at `s`, makes a call that names the `SP` source. -/
inductive IntrPath (s : State) (i : Instr) : Call → Prop where
  | clear (h : Delivers s.config.cmdBits i .clrIntr) : IntrPath s i (.clearPendingInterrupt .sp)
  | schedule (hset : s.config.intrSetCall = .schedulePending)
      (h : Delivers s.config.cmdBits i .setIntr) : IntrPath s i (.schedulePendingInterrupt .sp)
  | raise (hset : s.config.intrSetCall = .raise)
      (h : Delivers s.config.cmdBits i .setIntr) : IntrPath s i (.raiseInterrupt .sp)
  | signal (haudio : s.config.audioSignalEnabled = true)
      (h : Delivers s.config.cmdBits i (.setSig 0)) : IntrPath s i (.raiseInterrupt .sp)
  | delivery (hi : i = .deliverSpInt) (hbreak : s.flag .intrOnBreak = true) :
      IntrPath s i (.raiseInterrupt .sp)

/-- From `s` to `t` the record grows, and each new call that names the `SP` source satisfies `P`. -/
def AddsIntrCalls (P : Call → Prop) (s t : State) : Prop :=
  ∃ new, t.calls = s.calls ++ new ∧ ∀ c ∈ new, c.isIntr → P c

section Paths

variable {P : Call → Prop} {s t u : State} {i : Instr}

theorem AddsIntrCalls.trans (h : AddsIntrCalls P s t) (h' : AddsIntrCalls P t u) :
    AddsIntrCalls P s u := by
  obtain ⟨new, hn, hP⟩ := h
  obtain ⟨new', hn', hP'⟩ := h'
  refine ⟨new ++ new', by rw [hn', hn, List.append_assoc], fun c hc => ?_⟩
  exact (List.mem_append.1 hc).elim (hP c) (hP' c)

theorem AddsIntrCalls.of_calls_eq (h : t.calls = s.calls) : AddsIntrCalls P s t :=
  ⟨[], by rw [h, List.append_nil], by simp⟩

theorem AddsIntrCalls.of_append {new : List Call} (h : AddsIntrCalls P s t)
    (hn : t.calls = s.calls ++ new) {c : Call} (hc : c ∈ new) (hi : c.isIntr) : P c := by
  obtain ⟨new', hn', hP⟩ := h
  obtain rfl : new' = new := List.append_cancel_left (hn'.symm.trans hn)
  exact hP c hc hi

/-- A dispatch makes no call that names the `SP` source (R282). -/
theorem DispatchFrame.addsIntrCalls (h : DispatchFrame s t) : AddsIntrCalls P s t := by
  obtain ⟨new, hn, _, _, _, hintr, _⟩ := h.calls
  exact ⟨new, hn, fun c hc hi => absurd hi (hintr c hc)⟩

theorem State.postRun_addsIntrCalls (s : State) : AddsIntrCalls P s s.postRun := by
  rcases s.postRun_cases with ⟨_, e⟩ | ⟨_, e⟩ <;> rw [e]
  · exact ⟨_, rfl, by simp [Call.isIntr]⟩
  · exact .of_calls_eq rfl

/-- The word that an operation delivers to STATUS carries only commands that the operation
delivers. -/
theorem delivers_of_present {b : CmdBits} {w : Word} {d : Command}
    (hi : (∃ v m, i = .wrStatus v m ∧ w = v &&& m) ∨ ∃ c : Command, i = c.instr ∧ w = c.word b)
    (h : d.present b w = true) : Delivers b i d := by
  rcases hi with ⟨v, m, rfl, rfl⟩ | ⟨c, rfl, rfl⟩
  · exact .inr ⟨v, m, rfl, h⟩
  · obtain rfl : d = c := of_decide_eq_true ((Command.present_word b c d).symm.trans h)
    exact .inl rfl

/-- The effects of a word call the controller for the commands that the word carries (R165, R166,
R172). -/
theorem State.statusEffects_intrPath {w : Word}
    (hw : ∀ d : Command, d.present s.config.cmdBits w = true → Delivers s.config.cmdBits i d) :
    AddsIntrCalls (IntrPath s i) s (s.statusEffects w) := by
  rw [s.statusEffects_eq w]
  refine ⟨_ ++ (_ ++ _), by simp only [List.append_assoc]; rfl, fun c hc _ => ?_⟩
  simp only [List.mem_append, List.mem_ite_nil_right, List.mem_singleton, Bool.and_eq_true] at hc
  rcases hc with ⟨h, rfl⟩ | ⟨h, rfl⟩ | ⟨⟨h, haudio⟩, rfl⟩
  · exact .clear (hw .clrIntr h)
  · cases hset : s.config.intrSetCall with
    | schedulePending => exact .schedule hset (hw .setIntr h)
    | raise => exact .raise hset (hw .setIntr h)
  · exact .signal haudio (hw (.setSig 0) h)

/-- Of the plain operations a delivery alone calls the controller, and only with INTR_ON_BREAK set
(R248). -/
theorem exec_plain_intrPath (hm : i.mayDispatch = false) (h : exec i s = .next t) :
    AddsIntrCalls (IntrPath s i) s t := by
  obtain ⟨_, _, _, _, hcalls | ⟨hi, hcalls⟩⟩ := exec_plain_frame hm h
  · exact .of_calls_eq hcalls
  · subst hi
    cases hbreak : s.flag .intrOnBreak with
    | true =>
      refine ⟨_, hcalls, fun c hc _ => ?_⟩
      rw [List.mem_singleton.1 hc]
      exact .delivery rfl hbreak
    | false =>
      rw [exec, execDeliverSpInt, hbreak, State.deliveryLock_eq] at h
      cases h
      exact .of_calls_eq rfl

/-- Every call that an operation adds for the `SP` source is made on a path of R282. -/
theorem exec_intrPath (h : exec i s = .next t) : AddsIntrCalls (IntrPath s i) s t := by
  rcases exec_cases h with hm | ⟨_, rfl⟩ | ⟨w, rfl, hi⟩ | ⟨hf, _⟩
  · exact exec_plain_intrPath hm h
  · exact s.postRun_addsIntrCalls
  · exact (State.statusEffects_intrPath fun _ => delivers_of_present hi).trans
      (State.gate_frame _ _).addsIntrCalls
  · exact hf.addsIntrCalls

end Paths

/-- Settles O52: the paths that end in each of the three calls, read off `IntrPath`. -/
theorem pathsToTheInterruptControllerAreComplete :
    Obligations.PathsToTheInterruptControllerAreComplete := by
  rintro i s t new _ rfl hset h hnew
  have path : ∀ c ∈ new, c.isIntr → IntrPath s i c :=
    fun _ hc => (exec_intrPath h).of_append hnew hc
  refine ⟨fun hc => ?_, fun hc => ?_, fun hc => ?_⟩
  · cases path _ hc (.inr (.inr rfl)) with
    | schedule _ hd => exact hd
  · cases path _ hc (.inr (.inl rfl)) with
    | clear hd => exact hd
  · cases path _ hc (.inl rfl) with
    | raise hraise => exact absurd (hset.symm.trans hraise) IntrSetCall.noConfusion
    | signal haudio hd => exact .inl ⟨haudio, hd⟩
    | delivery hi hbreak => exact .inr ⟨hi, hbreak⟩

/-! ## What STATUS does not gate -/

/-- A store to the secondary bank does not look at STATUS. -/
theorem State.setPr_withStatus (s : State) (k : Nat) (x u : Word) :
    ({ s with status := u } : State).setPr k x = { s.setPr k x with status := u } := by
  by_cases hk : k % s.config.pcregsCount = 0 <;>
    simp only [State.setPr, State.prIndex, hk, if_true, if_false]

/-- Settles O56: no operation on the register file, local memory or the DMA engine looks at STATUS
but its own read; the secondary bank chooses the word to store (`State.setPr_withStatus`). -/
theorem haltGatesNothingButDispatch : Obligations.HaltGatesNothingButDispatch := by
  intro i s t u hm hread hdeliver hreset h
  cases i with
  | rdMemAddr | rdDramAddr | rdRdLen | rdWrLen | rdDmaFull | rdDmaBusy | rdSemaphore | rdPc
  | rdPcreg k | rdMem a | wrMemAddr v m | wrDramAddr v m | wrRdLen v m | wrWrLen v m
  | wrDmaFull v m | wrDmaBusy v m | wrSemaphore v m | wrMem a v m | dmaToLocal k c l
  | dmaToMain k c l =>
    cases h
    rfl
  | wrPc v m | wrPcreg k v m =>
    cases h
    exact congrArg Host.Outcome.next (s.setPr_withStatus _ _ u)
  | rdStatus => exact absurd rfl hread
  | deliverSpInt => exact absurd rfl hdeliver
  | reset => exact absurd rfl hreset
  | _ => exact absurd hm Bool.noConfusion

end Sys2Proof.Machine

/-! PROOF. Reset as the environment sees it (70_reset_and_hazards.md section 1): RESET replaces the
block's own state and leaves everything else of the machine as it was (R310, R37). -/

namespace Sys2Proof.Machine

/-- What RESET replaces, and the rest of the state as it was: the configuration, the environment and
the record of calls keep their values (R310). -/
theorem State.resetBlock_eq (s : State) :
    s.resetBlock = { s with
      lm := s.resetBlock.lm, pcRegs := s.resetBlock.pcRegs, memAddr := 0, dramAddr := 0,
      rdLen := 0, wrLen := 0, status := s.resetBlock.status, dmaFull := 0, dmaBusy := 0,
      semaphore := 0, pc := 0, taskLocked := false } := rfl

/-- Settles O48: RESET answers `resetBlock`, whose reads of the two memories and whose STATUS have
the lemmas of R37, and whose frame is `State.resetBlock_eq`. -/
theorem resetTouchesTheBlockOnly : Obligations.ResetTouchesTheBlockOnly := by
  intro s
  have completes : exec .reset s = .next s.resetBlock := rfl
  exact ⟨s.resetBlock, completes, s.resetBlock_lmRead, s.resetBlock_pr,
    s.resetBlock_status_onlyBit, s.resetBlock_eq⟩

end Sys2Proof.Machine

/-! PROOF. Words written out from the tables of 30_encoding.md sections 2 to 5: six are the encoder's
own words, two carry address bits that their bank ignores (R92, R93). -/

namespace Sys2Proof.Machine

/-- A port word that is the encoding of a well-formed operation decodes to it. -/
theorem decode_of_eq_encode {c : Config} {i : Instr} {p : PortWord} (hwf : i.wf c = true)
    (hp : p = encode c i) : decode c p = .ok i := by
  rw [hp, decodeOfEncodeIsTheOperation c i hwf]

/-- The secondary bank of two words takes bit 2 of the address alone, so that 0x08 selects PC as
0x00 does (R92). -/
theorem pcIndex_default_eight : pcIndex Config.default 0x08 = 0 :=
  (pcIndex_eq_zero _ _).2 (by decide)

/-- Local memory takes bits 12:2 of the address, so that 0x2FC3 selects the word at 0x0FC0, the task
tag's (R93). -/
theorem memIndex_tagAlias : memIndex 0x2FC3 = 0x3F0 := by decide

/-- Settles O2: a word with the encoder's address decodes by O1, the other two by the index that
their bank takes from the address. -/
theorem specWordsDecodeToTheirRows : Obligations.SpecWordsDecodeToTheirRows := by
  refine ⟨?semaphore, ?rdLen, ?pc, ?pcreg, ?mem, ?sig7, ?toLocal, ?tag⟩
  case semaphore | rdLen | pcreg | sig7 | toLocal | tag =>
    exact decode_of_eq_encode (by decide) (by decide)
  case pc =>
    exact (decode_pcRead _ _ 0 0).trans
      (congrArg Except.ok (decodePcRead_of_zero pcIndex_default_eight))
  case mem =>
    exact (decode_memRead _ _ 0 0).trans (congrArg (Except.ok ∘ Instr.rdMem) memIndex_tagAlias)

end Sys2Proof.Machine
